-- ==== Sys2Proof/Word.lean ====
section
/-! DEFINITION. The value types of the machine: bytes, 64-bit words, instruction words, register numbers and the
condition flags (00_scope.md R4, R6; 10_state.md R21, R25). -/

namespace Sys2Proof

/-- One byte of memory (R50). -/
abbrev Byte := BitVec 8

/-- A 64-bit value: a general register, the program counter or an address (R4). -/
abbrev Word := BitVec 64

/-- A 32-bit value: an instruction word or a single-precision pattern (R4, R80, R240). -/
abbrev Word32 := BitVec 32

/-- A register number, as the 5-bit fields Rd, Rn, Rm and Rt hold it (R21). -/
abbrev Reg := BitVec 5

/-- The register number of XZR, 31 (R22). -/
abbrev Reg.xzr : Reg := 31

/-- The link register that BL writes, register 30 (R172). -/
abbrev Reg.lr : Reg := 30

/-- The four condition flags, four independent bits (R25). -/
structure Flags where
  n : Bool
  z : Bool
  c : Bool
  v : Bool
deriving DecidableEq, Repr, Inhabited

end Sys2Proof
end

