-- ==== Sys2Proof/Syntax.lean ====
section
/-! DEFINITION. The instructions: one constructor of `Instr` for each row of spec/opcode_table.json, in the table's
order (30_encoding.md R97, with B.cond as its fourteen conditions, R95). An operand is the instruction's own field,
at the field's own width (R82 to R87, R94, R96), so that every value of a constructor is one an instruction word can hold. -/

namespace Sys2Proof

/-- The instructions. `rd rn rm rt` are register numbers, `shamt` the shift amount (R96), `imm` ALU_immediate (R83),
`addr` DT_address (R84), `br` BR_address (R85), `cbr` COND_BR_address (R86), `mov` MOV_immediate and `hw` its
position (R87). -/
inductive Instr where
  /-- B, B format, R170 -/
  | b (br : BitVec 26)
  /-- FMULS, R format, R244 -/
  | fmuls (rd : Reg) (rn : Reg) (rm : Reg)
  /-- FDIVS, R format, R245 -/
  | fdivs (rd : Reg) (rn : Reg) (rm : Reg)
  /-- FCMPS, R format, R254 -/
  | fcmps (rn : Reg) (rm : Reg)
  /-- FADDS, R format, R242 -/
  | fadds (rd : Reg) (rn : Reg) (rm : Reg)
  /-- FSUBS, R format, R243 -/
  | fsubs (rd : Reg) (rn : Reg) (rm : Reg)
  /-- FMULD, R format, R248 -/
  | fmuld (rd : Reg) (rn : Reg) (rm : Reg)
  /-- FDIVD, R format, R249 -/
  | fdivd (rd : Reg) (rn : Reg) (rm : Reg)
  /-- FCMPD, R format, R255 -/
  | fcmpd (rn : Reg) (rm : Reg)
  /-- FADDD, R format, R246 -/
  | faddd (rd : Reg) (rn : Reg) (rm : Reg)
  /-- FSUBD, R format, R247 -/
  | fsubd (rd : Reg) (rn : Reg) (rm : Reg)
  /-- STURB, D format, R196 -/
  | sturb (rt : Reg) (rn : Reg) (addr : BitVec 9)
  /-- LDURB, D format, R192 -/
  | ldurb (rt : Reg) (rn : Reg) (addr : BitVec 9)
  /-- B.EQ, CB format, R175 -/
  | bEq (cbr : BitVec 19)
  /-- B.NE, CB format, R175 -/
  | bNe (cbr : BitVec 19)
  /-- B.HS, CB format, R175 -/
  | bHs (cbr : BitVec 19)
  /-- B.LO, CB format, R175 -/
  | bLo (cbr : BitVec 19)
  /-- B.MI, CB format, R175 -/
  | bMi (cbr : BitVec 19)
  /-- B.PL, CB format, R175 -/
  | bPl (cbr : BitVec 19)
  /-- B.VS, CB format, R175 -/
  | bVs (cbr : BitVec 19)
  /-- B.VC, CB format, R175 -/
  | bVc (cbr : BitVec 19)
  /-- B.HI, CB format, R175 -/
  | bHi (cbr : BitVec 19)
  /-- B.LS, CB format, R175 -/
  | bLs (cbr : BitVec 19)
  /-- B.GE, CB format, R175 -/
  | bGe (cbr : BitVec 19)
  /-- B.LT, CB format, R175 -/
  | bLt (cbr : BitVec 19)
  /-- B.GT, CB format, R175 -/
  | bGt (cbr : BitVec 19)
  /-- B.LE, CB format, R175 -/
  | bLe (cbr : BitVec 19)
  /-- STURH, D format, R197 -/
  | sturh (rt : Reg) (rn : Reg) (addr : BitVec 9)
  /-- LDURH, D format, R193 -/
  | ldurh (rt : Reg) (rn : Reg) (addr : BitVec 9)
  /-- AND, R format, R141 -/
  | and (rd : Reg) (rn : Reg) (rm : Reg)
  /-- ADD, R format, R121 -/
  | add (rd : Reg) (rn : Reg) (rm : Reg)
  /-- ADDI, I format, R122 -/
  | addi (rd : Reg) (rn : Reg) (imm : BitVec 12)
  /-- ANDI, I format, R142 -/
  | andi (rd : Reg) (rn : Reg) (imm : BitVec 12)
  /-- BL, B format, R172 -/
  | bl (br : BitVec 26)
  /-- SDIV, R format, R224 -/
  | sdiv (rd : Reg) (rn : Reg) (rm : Reg)
  /-- UDIV, R format, R225 -/
  | udiv (rd : Reg) (rn : Reg) (rm : Reg)
  /-- MUL, R format, R221 -/
  | mul (rd : Reg) (rn : Reg) (rm : Reg)
  /-- SMULH, R format, R222 -/
  | smulh (rd : Reg) (rn : Reg) (rm : Reg)
  /-- UMULH, R format, R223 -/
  | umulh (rd : Reg) (rn : Reg) (rm : Reg)
  /-- ORR, R format, R145 -/
  | orr (rd : Reg) (rn : Reg) (rm : Reg)
  /-- ADDS, R format, R123 -/
  | adds (rd : Reg) (rn : Reg) (rm : Reg)
  /-- ADDIS, I format, R124 -/
  | addis (rd : Reg) (rn : Reg) (imm : BitVec 12)
  /-- ORRI, I format, R146 -/
  | orri (rd : Reg) (rn : Reg) (imm : BitVec 12)
  /-- CBZ, CB format, R177 -/
  | cbz (rt : Reg) (cbr : BitVec 19)
  /-- CBNZ, CB format, R178 -/
  | cbnz (rt : Reg) (cbr : BitVec 19)
  /-- STURW, D format, R198 -/
  | sturw (rt : Reg) (rn : Reg) (addr : BitVec 9)
  /-- LDURSW, D format, R194 -/
  | ldursw (rt : Reg) (rn : Reg) (addr : BitVec 9)
  /-- STURS, D format, R260 -/
  | sturs (rt : Reg) (rn : Reg) (addr : BitVec 9)
  /-- LDURS, D format, R258 -/
  | ldurs (rt : Reg) (rn : Reg) (addr : BitVec 9)
  /-- STXR, D format, R212 -/
  | stxr (rt : Reg) (rm : Reg) (rn : Reg)
  /-- LDXR, D format, R211 -/
  | ldxr (rt : Reg) (rn : Reg) (addr : BitVec 9)
  /-- EOR, R format, R147 -/
  | eor (rd : Reg) (rn : Reg) (rm : Reg)
  /-- SUB, R format, R125 -/
  | sub (rd : Reg) (rn : Reg) (rm : Reg)
  /-- SUBI, I format, R126 -/
  | subi (rd : Reg) (rn : Reg) (imm : BitVec 12)
  /-- EORI, I format, R148 -/
  | eori (rd : Reg) (rn : Reg) (imm : BitVec 12)
  /-- MOVZ, IM format, R161 -/
  | movz (rd : Reg) (mov : BitVec 16) (hw : BitVec 2)
  /-- LSR, R format, R151 -/
  | lsr (rd : Reg) (rn : Reg) (shamt : BitVec 6)
  /-- LSL, R format, R150 -/
  | lsl (rd : Reg) (rn : Reg) (shamt : BitVec 6)
  /-- BR, R format, R173 -/
  | br (rn : Reg)
  /-- ANDS, R format, R143 -/
  | ands (rd : Reg) (rn : Reg) (rm : Reg)
  /-- SUBS, R format, R127 -/
  | subs (rd : Reg) (rn : Reg) (rm : Reg)
  /-- SUBIS, I format, R128 -/
  | subis (rd : Reg) (rn : Reg) (imm : BitVec 12)
  /-- ANDIS, I format, R144 -/
  | andis (rd : Reg) (rn : Reg) (imm : BitVec 12)
  /-- MOVK, IM format, R162 -/
  | movk (rd : Reg) (mov : BitVec 16) (hw : BitVec 2)
  /-- STUR, D format, R195 -/
  | stur (rt : Reg) (rn : Reg) (addr : BitVec 9)
  /-- LDUR, D format, R191 -/
  | ldur (rt : Reg) (rn : Reg) (addr : BitVec 9)
  /-- STURD, D format, R261 -/
  | sturd (rt : Reg) (rn : Reg) (addr : BitVec 9)
  /-- LDURD, D format, R259 -/
  | ldurd (rt : Reg) (rn : Reg) (addr : BitVec 9)
deriving DecidableEq, Repr

/-- The 55 names of R97: B.cond is one instruction with fourteen rows. -/
inductive Mnemonic where
  | b | fmuls | fdivs | fcmps | fadds | fsubs | fmuld | fdivd | fcmpd | faddd | fsubd
  | sturb | ldurb | bCond | sturh | ldurh | and | add | addi | andi | bl | sdiv
  | udiv | mul | smulh | umulh | orr | adds | addis | orri | cbz | cbnz | sturw
  | ldursw | sturs | ldurs | stxr | ldxr | eor | sub | subi | eori | movz | lsr
  | lsl | br | ands | subs | subis | andis | movk | stur | ldur | sturd | ldurd
deriving DecidableEq, Repr

/-- All 55 instructions, the default of IMPLEMENTED_SUBSET (R5, D30). -/
def Mnemonic.all : List Mnemonic :=
  [.b, .fmuls, .fdivs, .fcmps, .fadds, .fsubs, .fmuld, .fdivd, .fcmpd, .faddd, .fsubd,
   .sturb, .ldurb, .bCond, .sturh, .ldurh, .and, .add, .addi, .andi, .bl, .sdiv,
   .udiv, .mul, .smulh, .umulh, .orr, .adds, .addis, .orri, .cbz, .cbnz, .sturw,
   .ldursw, .sturs, .ldurs, .stxr, .ldxr, .eor, .sub, .subi, .eori, .movz, .lsr,
   .lsl, .br, .ands, .subs, .subis, .andis, .movk, .stur, .ldur, .sturd, .ldurd]

/-- Which of the 55 instructions a term is. -/
def Instr.mnemonic : Instr → Mnemonic
  | .b _ => .b
  | .fmuls _ _ _ => .fmuls
  | .fdivs _ _ _ => .fdivs
  | .fcmps _ _ => .fcmps
  | .fadds _ _ _ => .fadds
  | .fsubs _ _ _ => .fsubs
  | .fmuld _ _ _ => .fmuld
  | .fdivd _ _ _ => .fdivd
  | .fcmpd _ _ => .fcmpd
  | .faddd _ _ _ => .faddd
  | .fsubd _ _ _ => .fsubd
  | .sturb _ _ _ => .sturb
  | .ldurb _ _ _ => .ldurb
  | .bEq _ => .bCond
  | .bNe _ => .bCond
  | .bHs _ => .bCond
  | .bLo _ => .bCond
  | .bMi _ => .bCond
  | .bPl _ => .bCond
  | .bVs _ => .bCond
  | .bVc _ => .bCond
  | .bHi _ => .bCond
  | .bLs _ => .bCond
  | .bGe _ => .bCond
  | .bLt _ => .bCond
  | .bGt _ => .bCond
  | .bLe _ => .bCond
  | .sturh _ _ _ => .sturh
  | .ldurh _ _ _ => .ldurh
  | .and _ _ _ => .and
  | .add _ _ _ => .add
  | .addi _ _ _ => .addi
  | .andi _ _ _ => .andi
  | .bl _ => .bl
  | .sdiv _ _ _ => .sdiv
  | .udiv _ _ _ => .udiv
  | .mul _ _ _ => .mul
  | .smulh _ _ _ => .smulh
  | .umulh _ _ _ => .umulh
  | .orr _ _ _ => .orr
  | .adds _ _ _ => .adds
  | .addis _ _ _ => .addis
  | .orri _ _ _ => .orri
  | .cbz _ _ => .cbz
  | .cbnz _ _ => .cbnz
  | .sturw _ _ _ => .sturw
  | .ldursw _ _ _ => .ldursw
  | .sturs _ _ _ => .sturs
  | .ldurs _ _ _ => .ldurs
  | .stxr _ _ _ => .stxr
  | .ldxr _ _ _ => .ldxr
  | .eor _ _ _ => .eor
  | .sub _ _ _ => .sub
  | .subi _ _ _ => .subi
  | .eori _ _ _ => .eori
  | .movz _ _ _ => .movz
  | .lsr _ _ _ => .lsr
  | .lsl _ _ _ => .lsl
  | .br _ => .br
  | .ands _ _ _ => .ands
  | .subs _ _ _ => .subs
  | .subis _ _ _ => .subis
  | .andis _ _ _ => .andis
  | .movk _ _ _ => .movk
  | .stur _ _ _ => .stur
  | .ldur _ _ _ => .ldur
  | .sturd _ _ _ => .sturd
  | .ldurd _ _ _ => .ldurd

/-- The fourteen conditions of B.cond, in the order of their numbers 0 to 13 (R95). -/
inductive Cond where
  | eq | ne | hs | lo | mi | pl | vs | vc | hi | ls | ge | lt | gt | le
deriving DecidableEq, Repr

end Sys2Proof
end

