-- ==== Sys2Proof/Config.lean ====
section
/-! DEFINITION. The parameters of 00_scope.md R5 with their defaults, the launch of 70_reset_and_hazards.md R341, and the
free values: constants with no body, of which nothing can be proved but their type. -/

namespace Sys2Proof

/-- BYTE_ORDER (R51). -/
inductive ByteOrder where
  | big | little
deriving DecidableEq, Repr

/-- MISALIGNED: what a data access not aligned to its size does (R54). -/
inductive Misaligned where
  | fault | split
deriving DecidableEq, Repr

/-- A parameter the spec gives a default and also lets a cautious model leave open: a fixed value, or a new free value
at every use (R30, R224, R225, R256). -/
inductive Choice (α : Type) where
  | fixed (v : α)
  | draw
deriving DecidableEq, Repr

/-- The four arithmetic operations of FP_NUMERICS (R251). -/
inductive FpOp where
  | add | sub | mul | div
deriving DecidableEq, Repr

/-- Which NaN pattern an IEEE 754 operation yields (R251): a free value among the NaN encodings, or ARMv8's default
NaN patterns. -/
inductive NanPolicy where
  | draw | armDefault
deriving DecidableEq, Repr

/-- FP_NUMERICS (R251): the IEEE 754 default, or another record of total functions, of which the model knows nothing
but its number. -/
inductive FpNumerics where
  | ieee (nan : NanPolicy)
  | other (record : Nat)
deriving DecidableEq, Repr

/-- `size` consecutive byte addresses from `base` on. -/
structure Region where
  base : Nat
  size : Nat
deriving DecidableEq, Repr

/-- The arguments of the step relation, which never change during a run (R5, R20). MEM_MAP is the union of `memMap`,
TEXT_WORDS the length of `text`; EXIT_PC absent is its default. OTHER_AGENTS is none, FP_REG_COUNT and FP_ALIAS are
fixed (log entries 27, 28). -/
structure Params where
  byteOrder : ByteOrder
  misaligned : Misaligned
  memMap : List Region
  textBase : Word
  text : List Word32
  exitPc : Option Word
  fpNumerics : FpNumerics
  fcmpUnordered : Choice Flags
  divByZero : Choice Word
  sdivOverflow : Choice Word
  /-- C and V after ANDS and ANDIS -/
  logicalCV : Choice (Bool × Bool)
  strictUnused : Bool
  stxrSpurious : Bool
  implemented : List Mnemonic
  fpEnabled : Bool
deriving DecidableEq, Repr

/-- The defaults of R5. MEM_MAP and TEXT_BASE have none there: DESIGN CHOICE, the whole address space (log entry 3) and
0x1000 (log entry 4). The image is empty (log entry 2). -/
def Params.default : Params where
  byteOrder := .big
  misaligned := .fault
  memMap := [⟨0, 0x10000000000000000⟩]
  textBase := 0x1000
  text := []
  exitPc := none
  fpNumerics := .ieee .draw
  fcmpUnordered := .fixed ⟨false, false, true, true⟩
  divByZero := .fixed 0
  sdivOverflow := .fixed 0x8000000000000000
  logicalCV := .fixed (false, false)
  strictUnused := false
  stxrSpurious := false
  implemented := Mnemonic.all
  fpEnabled := true

/-- INIT_REGS (R38, R341): register values at launch. -/
structure InitRegs where
  x : Vector Word 31
  flags : Flags
  d : Vector Word 32
  esr : Word32
deriving DecidableEq, Repr

/-- The values the model gives what a launch does not: zero. DESIGN CHOICE, log entries 5 to 8 (R38 leaves them
unspecified). -/
def InitRegs.default : InitRegs where
  x := Vector.replicate 31 0
  flags := ⟨false, false, false, false⟩
  d := Vector.replicate 32 0
  esr := 0

/-- What a launch supplies (R341). ENTRY_PC absent is its default, TEXT_BASE. -/
structure Launch where
  params : Params
  entryPc : Option Word
  regs : InitRegs
  data : List Host.Cell
deriving DecidableEq, Repr

/-- The launch with every default and no program: what `State.reset` starts from (log entry 2). -/
def Launch.default : Launch where
  params := Params.default
  entryPc := none
  regs := InitRegs.default
  data := []

/-- What a byte of data memory that nothing has written reads as. DESIGN CHOICE, log entry 9 (R38 leaves it
unspecified). -/
def Config.unlistedByte : Byte := 0

/-- The free values, one for each number of a draw (U11 to U21; log entry 10). -/
opaque Config.draw : Nat → Word

/-- Single-precision results under FP_NUMERICS other than IEEE 754: a total function of the two patterns for every
record and operation (R251, log entry 14). -/
opaque Config.fpOther32 : Nat → FpOp → Word32 → Word32 → Word32

/-- Double-precision results under FP_NUMERICS other than IEEE 754 (R251, log entry 14). -/
opaque Config.fpOther64 : Nat → FpOp → Word → Word → Word

end Sys2Proof
end

