-- ==== Sys2Proof/WellFormed.lean ====
section
/-! DEFINITION. What is checked of a term before it may run. The operands of an instruction are checked by their types
(each has its field's width), so what remains is whether the implementation has the instruction (D30) and whether a
launch is one R341 describes. The step does not rest on `Launch.wellFormed`: R303 speaks of a launch that breaks it. -/

namespace Sys2Proof

/-- An instruction is well formed for an implementation that has it: IMPLEMENTED_SUBSET (D30, 70_reset_and_hazards.md
section 5). -/
def Instr.wellFormed (p : Params) (i : Instr) : Bool :=
  p.implemented.contains i.mnemonic

/-- TEXT_BASE is a multiple of 4 and the image ends within the address space (R5, R341). -/
def Params.imageWellFormed (p : Params) : Bool :=
  p.textBase.toNat % 4 == 0 && decide (p.textBase.toNat + 4 * p.text.length ≤ 0x10000000000000000)

/-- MEM_MAP is a set of 64-bit byte addresses (R34, R59). -/
def Params.memMapWellFormed (p : Params) : Bool :=
  p.memMap.all fun r => decide (r.base + r.size ≤ 0x10000000000000000)

/-- ENTRY_PC is a multiple of 4 inside the image (R341). -/
def Launch.entryWellFormed (l : Launch) : Bool :=
  let entry := (l.entryPc.getD l.params.textBase).toNat
  entry % 4 == 0 && decide (l.params.textBase.toNat ≤ entry) &&
    decide (entry < l.params.textBase.toNat + 4 * l.params.text.length)

/-- A launch as R341 describes it. -/
def Launch.wellFormed (l : Launch) : Bool :=
  l.params.imageWellFormed && l.params.memMapWellFormed && l.entryWellFormed

end Sys2Proof
end

