-- ==== Sys2Proof/Decode.lean ====
section
/-! DEFINITION. From instruction words to instructions and back: the fields (30_encoding.md R82 to R87), the opcode table
(R97), the decoder with its refusals by name (R99), the encoder (R100), the unused fields (R98), and the byte order in
which a word or a datum lies in bytes (20_memory.md R52, R53, R61). -/

namespace Sys2Proof

/-! ## Byte order -/

/-- The bytes of the low `n` bytes of `v`, most significant first. -/
def bytesBE : Nat → Word → List Byte
  | 0, _ => []
  | n + 1, v => v.extractLsb' (8 * n) 8 :: bytesBE n v

/-- The value of a list of bytes, most significant first. -/
def joinBE (bs : List Byte) : Word :=
  bs.foldl (fun acc b => (acc <<< 8) ||| b.setWidth 64) 0

/-- Bytes most significant first into the order of their addresses, or back: the one place that reads BYTE_ORDER
(R51 to R53). -/
def ByteOrder.arrange (o : ByteOrder) (bs : List Byte) : List Byte :=
  match o with
  | .big => bs
  | .little => bs.reverse

/-! ## Fields of an instruction word -/

/-- Rd of the R, I and IM formats, Rt of D and CB: bits 4:0. -/
def fieldRd (w : Word32) : Reg := w.extractLsb' 0 5
/-- Rn: bits 9:5. -/
def fieldRn (w : Word32) : Reg := w.extractLsb' 5 5
/-- Rm: bits 20:16 (R82; for STXR R96). -/
def fieldRm (w : Word32) : Reg := w.extractLsb' 16 5
/-- shamt: bits 15:10 (R82). -/
def fieldShamt (w : Word32) : BitVec 6 := w.extractLsb' 10 6
/-- ALU_immediate: bits 21:10 (R83). -/
def fieldImm (w : Word32) : BitVec 12 := w.extractLsb' 10 12
/-- DT_address: bits 20:12 (R84). -/
def fieldAddr (w : Word32) : BitVec 9 := w.extractLsb' 12 9
/-- BR_address: bits 25:0 (R85). -/
def fieldBr (w : Word32) : BitVec 26 := w.extractLsb' 0 26
/-- COND_BR_address: bits 23:5 (R86). -/
def fieldCbr (w : Word32) : BitVec 19 := w.extractLsb' 5 19
/-- MOV_immediate: bits 20:5 (R87). -/
def fieldMov (w : Word32) : BitVec 16 := w.extractLsb' 5 16
/-- hw: bits 22:21 (R87). -/
def fieldHw (w : Word32) : BitVec 2 := w.extractLsb' 21 2
/-- The 11-bit opcode: bits 31:21 (R88). -/
def fieldOpcode11 (w : Word32) : BitVec 11 := w.extractLsb' 21 11

/-! ## The opcode table -/

/-- A row of R97: a word `w` is the row's instruction exactly when `w &&& mask = bits`. -/
structure OpcodeRow where
  mask : Word32
  bits : Word32
  build : Word32 → Instr

/-- R97, rows 1 to 17 of the table. -/
def opcodeRows1 : List OpcodeRow :=
  [⟨0xFC000000, 0x14000000, fun w => .b (fieldBr w)⟩,
   ⟨0xFFE0FC00, 0x1E200800, fun w => .fmuls (fieldRd w) (fieldRn w) (fieldRm w)⟩,
   ⟨0xFFE0FC00, 0x1E201800, fun w => .fdivs (fieldRd w) (fieldRn w) (fieldRm w)⟩,
   ⟨0xFFE0FC00, 0x1E202000, fun w => .fcmps (fieldRn w) (fieldRm w)⟩,
   ⟨0xFFE0FC00, 0x1E202800, fun w => .fadds (fieldRd w) (fieldRn w) (fieldRm w)⟩,
   ⟨0xFFE0FC00, 0x1E203800, fun w => .fsubs (fieldRd w) (fieldRn w) (fieldRm w)⟩,
   ⟨0xFFE0FC00, 0x1E600800, fun w => .fmuld (fieldRd w) (fieldRn w) (fieldRm w)⟩,
   ⟨0xFFE0FC00, 0x1E601800, fun w => .fdivd (fieldRd w) (fieldRn w) (fieldRm w)⟩,
   ⟨0xFFE0FC00, 0x1E602000, fun w => .fcmpd (fieldRn w) (fieldRm w)⟩,
   ⟨0xFFE0FC00, 0x1E602800, fun w => .faddd (fieldRd w) (fieldRn w) (fieldRm w)⟩,
   ⟨0xFFE0FC00, 0x1E603800, fun w => .fsubd (fieldRd w) (fieldRn w) (fieldRm w)⟩,
   ⟨0xFFE00000, 0x38000000, fun w => .sturb (fieldRd w) (fieldRn w) (fieldAddr w)⟩,
   ⟨0xFFE00000, 0x38400000, fun w => .ldurb (fieldRd w) (fieldRn w) (fieldAddr w)⟩,
   ⟨0xFF00001F, 0x54000000, fun w => .bEq (fieldCbr w)⟩,
   ⟨0xFF00001F, 0x54000001, fun w => .bNe (fieldCbr w)⟩,
   ⟨0xFF00001F, 0x54000002, fun w => .bHs (fieldCbr w)⟩,
   ⟨0xFF00001F, 0x54000003, fun w => .bLo (fieldCbr w)⟩]

/-- R97, rows 18 to 34 of the table. -/
def opcodeRows2 : List OpcodeRow :=
  [⟨0xFF00001F, 0x54000004, fun w => .bMi (fieldCbr w)⟩,
   ⟨0xFF00001F, 0x54000005, fun w => .bPl (fieldCbr w)⟩,
   ⟨0xFF00001F, 0x54000006, fun w => .bVs (fieldCbr w)⟩,
   ⟨0xFF00001F, 0x54000007, fun w => .bVc (fieldCbr w)⟩,
   ⟨0xFF00001F, 0x54000008, fun w => .bHi (fieldCbr w)⟩,
   ⟨0xFF00001F, 0x54000009, fun w => .bLs (fieldCbr w)⟩,
   ⟨0xFF00001F, 0x5400000A, fun w => .bGe (fieldCbr w)⟩,
   ⟨0xFF00001F, 0x5400000B, fun w => .bLt (fieldCbr w)⟩,
   ⟨0xFF00001F, 0x5400000C, fun w => .bGt (fieldCbr w)⟩,
   ⟨0xFF00001F, 0x5400000D, fun w => .bLe (fieldCbr w)⟩,
   ⟨0xFFE00000, 0x78000000, fun w => .sturh (fieldRd w) (fieldRn w) (fieldAddr w)⟩,
   ⟨0xFFE00000, 0x78400000, fun w => .ldurh (fieldRd w) (fieldRn w) (fieldAddr w)⟩,
   ⟨0xFFE00000, 0x8A000000, fun w => .and (fieldRd w) (fieldRn w) (fieldRm w)⟩,
   ⟨0xFFE00000, 0x8B000000, fun w => .add (fieldRd w) (fieldRn w) (fieldRm w)⟩,
   ⟨0xFFC00000, 0x91000000, fun w => .addi (fieldRd w) (fieldRn w) (fieldImm w)⟩,
   ⟨0xFFC00000, 0x92000000, fun w => .andi (fieldRd w) (fieldRn w) (fieldImm w)⟩,
   ⟨0xFC000000, 0x94000000, fun w => .bl (fieldBr w)⟩]

/-- R97, rows 35 to 51 of the table. -/
def opcodeRows3 : List OpcodeRow :=
  [⟨0xFFE0FC00, 0x9AC00800, fun w => .sdiv (fieldRd w) (fieldRn w) (fieldRm w)⟩,
   ⟨0xFFE0FC00, 0x9AC00C00, fun w => .udiv (fieldRd w) (fieldRn w) (fieldRm w)⟩,
   ⟨0xFFE0FC00, 0x9B007C00, fun w => .mul (fieldRd w) (fieldRn w) (fieldRm w)⟩,
   ⟨0xFFE00000, 0x9B400000, fun w => .smulh (fieldRd w) (fieldRn w) (fieldRm w)⟩,
   ⟨0xFFE00000, 0x9BC00000, fun w => .umulh (fieldRd w) (fieldRn w) (fieldRm w)⟩,
   ⟨0xFFE00000, 0xAA000000, fun w => .orr (fieldRd w) (fieldRn w) (fieldRm w)⟩,
   ⟨0xFFE00000, 0xAB000000, fun w => .adds (fieldRd w) (fieldRn w) (fieldRm w)⟩,
   ⟨0xFFC00000, 0xB1000000, fun w => .addis (fieldRd w) (fieldRn w) (fieldImm w)⟩,
   ⟨0xFFC00000, 0xB2000000, fun w => .orri (fieldRd w) (fieldRn w) (fieldImm w)⟩,
   ⟨0xFF000000, 0xB4000000, fun w => .cbz (fieldRd w) (fieldCbr w)⟩,
   ⟨0xFF000000, 0xB5000000, fun w => .cbnz (fieldRd w) (fieldCbr w)⟩,
   ⟨0xFFE00000, 0xB8000000, fun w => .sturw (fieldRd w) (fieldRn w) (fieldAddr w)⟩,
   ⟨0xFFE00000, 0xB8800000, fun w => .ldursw (fieldRd w) (fieldRn w) (fieldAddr w)⟩,
   ⟨0xFFE00000, 0xBC000000, fun w => .sturs (fieldRd w) (fieldRn w) (fieldAddr w)⟩,
   ⟨0xFFE00000, 0xBC400000, fun w => .ldurs (fieldRd w) (fieldRn w) (fieldAddr w)⟩,
   ⟨0xFFE00000, 0xC8000000, fun w => .stxr (fieldRd w) (fieldRm w) (fieldRn w)⟩,
   ⟨0xFFE00000, 0xC8400000, fun w => .ldxr (fieldRd w) (fieldRn w) (fieldAddr w)⟩]

/-- R97, rows 52 to 68 of the table. -/
def opcodeRows4 : List OpcodeRow :=
  [⟨0xFFE00000, 0xCA000000, fun w => .eor (fieldRd w) (fieldRn w) (fieldRm w)⟩,
   ⟨0xFFE00000, 0xCB000000, fun w => .sub (fieldRd w) (fieldRn w) (fieldRm w)⟩,
   ⟨0xFFC00000, 0xD1000000, fun w => .subi (fieldRd w) (fieldRn w) (fieldImm w)⟩,
   ⟨0xFFC00000, 0xD2000000, fun w => .eori (fieldRd w) (fieldRn w) (fieldImm w)⟩,
   ⟨0xFF800000, 0xD2800000, fun w => .movz (fieldRd w) (fieldMov w) (fieldHw w)⟩,
   ⟨0xFFE00000, 0xD3400000, fun w => .lsr (fieldRd w) (fieldRn w) (fieldShamt w)⟩,
   ⟨0xFFE00000, 0xD3600000, fun w => .lsl (fieldRd w) (fieldRn w) (fieldShamt w)⟩,
   ⟨0xFFE00000, 0xD6000000, fun w => .br (fieldRn w)⟩,
   ⟨0xFFE00000, 0xEA000000, fun w => .ands (fieldRd w) (fieldRn w) (fieldRm w)⟩,
   ⟨0xFFE00000, 0xEB000000, fun w => .subs (fieldRd w) (fieldRn w) (fieldRm w)⟩,
   ⟨0xFFC00000, 0xF1000000, fun w => .subis (fieldRd w) (fieldRn w) (fieldImm w)⟩,
   ⟨0xFFC00000, 0xF2000000, fun w => .andis (fieldRd w) (fieldRn w) (fieldImm w)⟩,
   ⟨0xFF800000, 0xF2800000, fun w => .movk (fieldRd w) (fieldMov w) (fieldHw w)⟩,
   ⟨0xFFE00000, 0xF8000000, fun w => .stur (fieldRd w) (fieldRn w) (fieldAddr w)⟩,
   ⟨0xFFE00000, 0xF8400000, fun w => .ldur (fieldRd w) (fieldRn w) (fieldAddr w)⟩,
   ⟨0xFFE00000, 0xFC000000, fun w => .sturd (fieldRd w) (fieldRn w) (fieldAddr w)⟩,
   ⟨0xFFE00000, 0xFC400000, fun w => .ldurd (fieldRd w) (fieldRn w) (fieldAddr w)⟩]

/-- The opcode table of R97, B.cond as its fourteen conditions, in the order of spec/opcode_table.json. -/
def opcodeTable : List OpcodeRow :=
  opcodeRows1 ++ opcodeRows2 ++ opcodeRows3 ++ opcodeRows4

/-- Why a word is not an instruction. Each of these raises Unknown when executed (R99, R301). -/
inductive Reject where
  /-- fewer than four bytes are left -/
  | truncated
  /-- no row has the word's opcode (R99) -/
  | unallocated
  /-- B.cond with a condition field of 14 to 31 (R99, R175) -/
  | reservedCondition
  /-- an opcode whose shamt field must match, with another shamt (R99, R250) -/
  | reservedShamt
  /-- a nonzero unused field, under STRICT_UNUSED_FIELDS (R98) -/
  | unusedFieldSet
  /-- an instruction outside IMPLEMENTED_SUBSET (D30) -/
  | notImplemented
deriving DecidableEq, Repr

/-- The name of the refusal of a word that matches no row (R99). -/
def rejectReason (w : Word32) : Reject :=
  if w.extractLsb' 24 8 = 0b01010100 then .reservedCondition
  else if fieldOpcode11 w ∈ [0x0F1, 0x0F3, 0x4D6, 0x4D8] then .reservedShamt
  else .unallocated

/-- The decoder of R97: the row that matches, or the refusal. -/
def decode (w : Word32) : Except Reject Instr :=
  match opcodeTable.find? fun r => w &&& r.mask == r.bits with
  | some r => .ok (r.build w)
  | none => .error (rejectReason w)

/-- The word whose four bytes stand at rising addresses, in BYTE_ORDER (R61). -/
def wordOfBytes (o : ByteOrder) (bs : List Byte) : Word32 :=
  (joinBE (o.arrange bs)).setWidth 32

/-- Decodes the instruction at the head of a list of bytes; answers it with the bytes after it. -/
def decodeBytes (o : ByteOrder) : List Byte → Except Reject (Instr × List Byte)
  | b0 :: b1 :: b2 :: b3 :: rest => (decode (wordOfBytes o [b0, b1, b2, b3])).map fun i => (i, rest)
  | _ => .error .truncated

/-- The image given as bytes (R61): its whole words, in order; up to three bytes left over at the end are no word. -/
def imageOfBytes (o : ByteOrder) : List Byte → List Word32
  | b0 :: b1 :: b2 :: b3 :: rest => wordOfBytes o [b0, b1, b2, b3] :: imageOfBytes o rest
  | _ => []

/-! ## Unused fields -/

/-- The bits of an instruction's word that its rule gives no meaning (R98). -/
def unusedMask : Mnemonic → Word32
  | .add | .adds | .and | .ands | .orr | .eor | .sub | .subs | .smulh | .umulh => 0x0000FC00
  | .lsl | .lsr => 0x001F0000
  | .br => 0x001FFC1F
  | .fcmps | .fcmpd => 0x0000001F
  | .ldur | .ldurb | .ldurh | .ldursw | .ldxr | .stur | .sturb | .sturh | .sturw => 0x00000C00
  | .ldurs | .ldurd | .sturs | .sturd => 0x00000C00
  | .stxr => 0x0000FC00
  | .addi | .addis | .subi | .subis | .andi | .andis | .orri | .eori => 0
  | .b | .bl | .bCond | .cbz | .cbnz | .movz | .movk => 0
  | .mul | .sdiv | .udiv => 0
  | .fmuls | .fdivs | .fadds | .fsubs | .fmuld | .fdivd | .faddd | .fsubd => 0

/-- The decoder under a launch's parameters: STRICT_UNUSED_FIELDS (R98) and IMPLEMENTED_SUBSET (D30) refuse more
words. -/
def decodeFor (p : Params) (w : Word32) : Except Reject Instr :=
  match decode w with
  | .error e => .error e
  | .ok i =>
    if p.strictUnused && w &&& unusedMask i.mnemonic != 0 then .error .unusedFieldSet
    else if i.wellFormed p then .ok i
    else .error .notImplemented

/-! ## The encoder -/

/-- R format (R82, R100); STXR's word has the same fields (R96). -/
def encodeR (op : BitVec 11) (rm : Reg) (shamt : BitVec 6) (rn rd : Reg) : Word32 := op ++ rm ++ shamt ++ rn ++ rd
/-- I format (R83, R100). -/
def encodeI (op : BitVec 10) (imm : BitVec 12) (rn rd : Reg) : Word32 := op ++ imm ++ rn ++ rd
/-- D format with op = 0 (R84, R100). -/
def encodeD (op : BitVec 11) (addr : BitVec 9) (rn rt : Reg) : Word32 := op ++ addr ++ (0 : BitVec 2) ++ rn ++ rt
/-- B format (R85, R100). -/
def encodeB (op : BitVec 6) (br : BitVec 26) : Word32 := op ++ br
/-- CB format (R86, R100); for B.cond the last field is the condition number (R95). -/
def encodeCB (op : BitVec 8) (cbr : BitVec 19) (rt : BitVec 5) : Word32 := op ++ cbr ++ rt
/-- IM format (R87, R100). -/
def encodeIM (op : BitVec 9) (hw : BitVec 2) (mov : BitVec 16) (rd : Reg) : Word32 := op ++ hw ++ mov ++ rd

/-- The word of an instruction, unused fields zero (R97, R98, R100). -/
def encode : Instr → Word32
  | .b br => encodeB 0b000101 br
  | .fmuls rd rn rm => encodeR 0x0F1 rm 0b000010 rn rd
  | .fdivs rd rn rm => encodeR 0x0F1 rm 0b000110 rn rd
  | .fcmps rn rm => encodeR 0x0F1 rm 0b001000 rn 0
  | .fadds rd rn rm => encodeR 0x0F1 rm 0b001010 rn rd
  | .fsubs rd rn rm => encodeR 0x0F1 rm 0b001110 rn rd
  | .fmuld rd rn rm => encodeR 0x0F3 rm 0b000010 rn rd
  | .fdivd rd rn rm => encodeR 0x0F3 rm 0b000110 rn rd
  | .fcmpd rn rm => encodeR 0x0F3 rm 0b001000 rn 0
  | .faddd rd rn rm => encodeR 0x0F3 rm 0b001010 rn rd
  | .fsubd rd rn rm => encodeR 0x0F3 rm 0b001110 rn rd
  | .sturb rt rn addr => encodeD 0x1C0 addr rn rt
  | .ldurb rt rn addr => encodeD 0x1C2 addr rn rt
  | .bEq cbr => encodeCB 0b01010100 cbr 0
  | .bNe cbr => encodeCB 0b01010100 cbr 1
  | .bHs cbr => encodeCB 0b01010100 cbr 2
  | .bLo cbr => encodeCB 0b01010100 cbr 3
  | .bMi cbr => encodeCB 0b01010100 cbr 4
  | .bPl cbr => encodeCB 0b01010100 cbr 5
  | .bVs cbr => encodeCB 0b01010100 cbr 6
  | .bVc cbr => encodeCB 0b01010100 cbr 7
  | .bHi cbr => encodeCB 0b01010100 cbr 8
  | .bLs cbr => encodeCB 0b01010100 cbr 9
  | .bGe cbr => encodeCB 0b01010100 cbr 10
  | .bLt cbr => encodeCB 0b01010100 cbr 11
  | .bGt cbr => encodeCB 0b01010100 cbr 12
  | .bLe cbr => encodeCB 0b01010100 cbr 13
  | .sturh rt rn addr => encodeD 0x3C0 addr rn rt
  | .ldurh rt rn addr => encodeD 0x3C2 addr rn rt
  | .and rd rn rm => encodeR 0x450 rm 0b000000 rn rd
  | .add rd rn rm => encodeR 0x458 rm 0b000000 rn rd
  | .addi rd rn imm => encodeI 0b1001000100 imm rn rd
  | .andi rd rn imm => encodeI 0b1001001000 imm rn rd
  | .bl br => encodeB 0b100101 br
  | .sdiv rd rn rm => encodeR 0x4D6 rm 0b000010 rn rd
  | .udiv rd rn rm => encodeR 0x4D6 rm 0b000011 rn rd
  | .mul rd rn rm => encodeR 0x4D8 rm 0b011111 rn rd
  | .smulh rd rn rm => encodeR 0x4DA rm 0b000000 rn rd
  | .umulh rd rn rm => encodeR 0x4DE rm 0b000000 rn rd
  | .orr rd rn rm => encodeR 0x550 rm 0b000000 rn rd
  | .adds rd rn rm => encodeR 0x558 rm 0b000000 rn rd
  | .addis rd rn imm => encodeI 0b1011000100 imm rn rd
  | .orri rd rn imm => encodeI 0b1011001000 imm rn rd
  | .cbz rt cbr => encodeCB 0b10110100 cbr rt
  | .cbnz rt cbr => encodeCB 0b10110101 cbr rt
  | .sturw rt rn addr => encodeD 0x5C0 addr rn rt
  | .ldursw rt rn addr => encodeD 0x5C4 addr rn rt
  | .sturs rt rn addr => encodeD 0x5E0 addr rn rt
  | .ldurs rt rn addr => encodeD 0x5E2 addr rn rt
  | .stxr rt rm rn => encodeR 0x640 rm 0 rn rt
  | .ldxr rt rn addr => encodeD 0x642 addr rn rt
  | .eor rd rn rm => encodeR 0x650 rm 0b000000 rn rd
  | .sub rd rn rm => encodeR 0x658 rm 0b000000 rn rd
  | .subi rd rn imm => encodeI 0b1101000100 imm rn rd
  | .eori rd rn imm => encodeI 0b1101001000 imm rn rd
  | .movz rd mov hw => encodeIM 0b110100101 hw mov rd
  | .lsr rd rn shamt => encodeR 0x69A 0 shamt rn rd
  | .lsl rd rn shamt => encodeR 0x69B 0 shamt rn rd
  | .br rn => encodeR 0x6B0 0 0b000000 rn 0
  | .ands rd rn rm => encodeR 0x750 rm 0b000000 rn rd
  | .subs rd rn rm => encodeR 0x758 rm 0b000000 rn rd
  | .subis rd rn imm => encodeI 0b1111000100 imm rn rd
  | .andis rd rn imm => encodeI 0b1111001000 imm rn rd
  | .movk rd mov hw => encodeIM 0b111100101 hw mov rd
  | .stur rt rn addr => encodeD 0x7C0 addr rn rt
  | .ldur rt rn addr => encodeD 0x7C2 addr rn rt
  | .sturd rt rn addr => encodeD 0x7E0 addr rn rt
  | .ldurd rt rn addr => encodeD 0x7E2 addr rn rt

/-- The word of an instruction as it lies in bytes (R61). -/
def encodeBytes (o : ByteOrder) (i : Instr) : List Byte :=
  o.arrange (bytesBE 4 ((encode i).setWidth 64))

/-- The instruction of the word whose bits are `w`, laid out in bytes in the default BYTE_ORDER and decoded from
there. Every instruction is one 32-bit word (R80), so `nbits` leaves nothing to fill. -/
def decodeTableWord (nbits w : Nat) : Option Instr :=
  let word : Word32 := BitVec.ofNat 32 (w % 2 ^ nbits)
  match decodeBytes .big (ByteOrder.big.arrange (bytesBE 4 (word.setWidth 64))) with
  | .ok (i, _) => some i
  | .error _ => none

end Sys2Proof
end

