-- ==== Sys2Proof/Machine/Flags.lean ====
section
/-! DEFINITION. The flag computations (10_state.md R25 to R30) and the conditions that read them (43_branch.md R176).
The flags of a floating-point compare are in Machine/Float.lean (R256). -/

namespace Sys2Proof.Machine

/-- AddWithCarry of R27: the sum and its flags, from the exact unsigned and signed sums. -/
def addWithCarry (a b : Word) (cin : Bool) : Word × Flags :=
  let usum : Nat := a.toNat + b.toNat + cin.toNat
  let ssum : Int := a.toInt + b.toInt + cin.toNat
  let r : Word := BitVec.ofNat 64 usum
  (r, { n := r.msb, z := r == 0, c := decide (0x10000000000000000 ≤ usum), v := decide (r.toInt ≠ ssum) })

/-- An addition with flags (R27, R123). -/
def addFlags (a b : Word) : Word × Flags := addWithCarry a b false

/-- A subtraction with flags: `a + ~b + 1` (R27, R127). -/
def subFlags (a b : Word) : Word × Flags := addWithCarry a (~~~b) true

/-- The flags of a logical result: N and Z of the result (R26), C and V as LOGICAL_FLAGS_CV gives them (R30). -/
def logicalFlags (r : Word) (cv : Bool × Bool) : Flags :=
  { n := r.msb, z := r == 0, c := cv.1, v := cv.2 }

/-- CondHolds of R176. -/
def condHolds (c : Cond) (f : Flags) : Bool :=
  match c with
  | .eq => f.z
  | .ne => !f.z
  | .hs => f.c
  | .lo => !f.c
  | .mi => f.n
  | .pl => !f.n
  | .vs => f.v
  | .vc => !f.v
  | .hi => !f.z && f.c
  | .ls => !(!f.z && f.c)
  | .ge => f.n == f.v
  | .lt => f.n != f.v
  | .gt => !f.z && f.n == f.v
  | .le => !(!f.z && f.n == f.v)

end Sys2Proof.Machine
end

