-- ==== Sys2Proof/Machine/Float.lean ====
section
/-! DEFINITION. IEEE 754 arithmetic on bit patterns: the default of FP_NUMERICS (47_floating_point.md R240, R241, R251)
and the order a compare tests (R256). PRESUMED where the spec marks it general knowledge (log entry 15).

A finite value is held exactly, as its sign and a natural number of quanta: a quantum is the smallest positive denormal,
2^(1 - bias - fracBits), and every finite value is a whole number of them. A sum is then exact, and a product or a
quotient is an exact fraction of quanta, rounded once. -/

namespace Sys2Proof.Machine

/-- A format of R240: the widths of its exponent and fraction, and its bias. -/
structure FpFormat where
  expBits : Nat
  fracBits : Nat
  bias : Nat
deriving DecidableEq, Repr

/-- Single precision (R240). -/
def FpFormat.single : FpFormat := ⟨8, 23, 127⟩

/-- Double precision (R240). -/
def FpFormat.double : FpFormat := ⟨11, 52, 1023⟩

/-- MAX, the all-ones exponent: 255 or 2047 (R241). -/
def FpFormat.maxExp (f : FpFormat) : Nat := 2 ^ f.expBits - 1

/-- How many quanta make 1.0, as a power of two: 1.0 is 2^(bias - 1 + fracBits) quanta (R240). -/
def FpFormat.unitLog (f : FpFormat) : Nat := f.bias - 1 + f.fracBits

/-- What a bit pattern denotes (R241). -/
inductive FpVal where
  | nan
  | inf (neg : Bool)
  | fin (neg : Bool) (quanta : Nat)
deriving DecidableEq, Repr

/-- The sign, exponent and fraction fields of a pattern (R240). -/
def FpFormat.value (f : FpFormat) (bits : Nat) : FpVal :=
  let neg := bits / 2 ^ (f.expBits + f.fracBits) % 2 == 1
  let exp := bits / 2 ^ f.fracBits % 2 ^ f.expBits
  let frac := bits % 2 ^ f.fracBits
  if exp = f.maxExp then (if frac = 0 then .inf neg else .nan)
  else if exp = 0 then .fin neg frac
  else .fin neg ((2 ^ f.fracBits + frac) * 2 ^ (exp - 1))

/-- The pattern of a sign and a magnitude. -/
def FpFormat.withSign (f : FpFormat) (neg : Bool) (mag : Nat) : Nat :=
  if neg then 2 ^ (f.expBits + f.fracBits) + mag else mag

/-- The pattern of an infinity (R241). -/
def FpFormat.infBits (f : FpFormat) (neg : Bool) : Nat := f.withSign neg (f.maxExp * 2 ^ f.fracBits)

/-- The magnitude pattern of `num / den` quanta, rounded to nearest, ties to even (R251). `k` is how far the unit in
the last place lies above a quantum; a mantissa that rounds up to the next power of two carries into the exponent
field, and a pattern at or beyond the infinity's is the infinity's. -/
def FpFormat.roundMag (f : FpFormat) (num den : Nat) : Nat :=
  let k := Nat.log2 (num / den) - f.fracBits
  let unit := den * 2 ^ k
  let m := num / unit
  let r := num % unit
  let m' := if unit < 2 * r ∨ (2 * r = unit ∧ m % 2 = 1) then m + 1 else m
  min (k * 2 ^ f.fracBits + m') (f.maxExp * 2 ^ f.fracBits)

/-- The pattern of a signed fraction of quanta; none stands for a NaN. -/
def FpFormat.round (f : FpFormat) (neg : Bool) (num den : Nat) : Option Nat :=
  some (f.withSign neg (f.roundMag num den))

/-- Addition (R251's table). -/
def FpFormat.add (f : FpFormat) : FpVal → FpVal → Option Nat
  | .nan, _ => none
  | _, .nan => none
  | .inf a, .inf b => if a = b then some (f.infBits a) else none
  | .inf a, .fin _ _ => some (f.infBits a)
  | .fin _ _, .inf b => some (f.infBits b)
  | .fin a p, .fin b q =>
    if a = b then f.round a (p + q) 1
    else if p = q then some 0
    else if q < p then f.round a (p - q) 1
    else f.round b (q - p) 1

/-- The value with its sign flipped; a NaN stays one. -/
def FpVal.neg : FpVal → FpVal
  | .nan => .nan
  | .inf a => .inf (!a)
  | .fin a p => .fin (!a) p

/-- Multiplication: the product of two whole numbers of quanta, over the number of quanta in 1.0 (R251). -/
def FpFormat.mul (f : FpFormat) : FpVal → FpVal → Option Nat
  | .nan, _ => none
  | _, .nan => none
  | .inf a, .inf b => some (f.infBits (a != b))
  | .inf a, .fin b q => if q = 0 then none else some (f.infBits (a != b))
  | .fin a p, .inf b => if p = 0 then none else some (f.infBits (a != b))
  | .fin a p, .fin b q => f.round (a != b) (p * q) (2 ^ f.unitLog)

/-- Division: x / 0 is an infinity, 0 / 0 and ∞ / ∞ are NaNs, x / ∞ is a zero (R251). -/
def FpFormat.div (f : FpFormat) : FpVal → FpVal → Option Nat
  | .nan, _ => none
  | _, .nan => none
  | .inf _, .inf _ => none
  | .inf a, .fin b _ => some (f.infBits (a != b))
  | .fin a _, .inf b => some (f.withSign (a != b) 0)
  | .fin a p, .fin b q =>
    if q = 0 then (if p = 0 then none else some (f.infBits (a != b)))
    else f.round (a != b) (p * 2 ^ f.unitLog) q

/-- One of the four operations on two patterns under IEEE 754; none where the result is a NaN (R251). -/
def FpFormat.arith (f : FpFormat) (op : FpOp) (a b : Nat) : Option Nat :=
  match op with
  | .add => f.add (f.value a) (f.value b)
  | .sub => f.add (f.value a) (f.value b).neg
  | .mul => f.mul (f.value a) (f.value b)
  | .div => f.div (f.value a) (f.value b)

/-- The relation a compare finds (R256). -/
inductive FpRel where
  | equal | less | greater | unordered
deriving DecidableEq, Repr

/-- A finite value as a signed number of quanta: both zeros are 0 (R256). -/
def signedQuanta (neg : Bool) (q : Nat) : Int := if neg then -(q : Int) else q

/-- How two values compare (R256): as the real numbers and infinities they denote. -/
def fpCompare : FpVal → FpVal → FpRel
  | .nan, _ => .unordered
  | _, .nan => .unordered
  | .inf a, .inf b => if a = b then .equal else if a then .less else .greater
  | .inf a, .fin _ _ => if a then .less else .greater
  | .fin _ _, .inf b => if b then .greater else .less
  | .fin a p, .fin b q =>
    if signedQuanta a p = signedQuanta b q then .equal
    else if signedQuanta a p < signedQuanta b q then .less
    else .greater

/-- FLAGS of note (10) for an ordered relation; none for an unordered one, which the note leaves open (R256). -/
def FpRel.flags : FpRel → Option Flags
  | .equal => some ⟨false, true, true, false⟩
  | .less => some ⟨true, false, false, false⟩
  | .greater => some ⟨false, false, true, false⟩
  | .unordered => none

/-- A NaN of the single format made from any pattern: the pattern's sign and fraction, the all-ones exponent, and the
quiet NaN's fraction bit where the fraction is zero. Every NaN is one of these (R241, log entry 13). -/
def nanOf32 (w : Word32) : Word32 :=
  if w.extractLsb' 0 23 = 0 then w ||| 0x7FC00000 else w ||| 0x7F800000

/-- The same for the double format. -/
def nanOf64 (w : Word) : Word :=
  if w.extractLsb' 0 52 = 0 then w ||| 0x7FF8000000000000 else w ||| 0x7FF0000000000000

end Sys2Proof.Machine
end

