-- ==== Sys2Proof/Machine/Operands.lean ====
section
/-! DEFINITION. The operand values an instruction assembles from its fields (30_encoding.md R90 to R94). -/

namespace Sys2Proof.Machine

/-- ALUImm: the 12-bit immediate, zero-extended (R90). -/
def aluImm (imm : BitVec 12) : Word := imm.setWidth 64

/-- BranchAddr: the 26-bit field with two zero bits appended, sign-extended (R91). -/
def branchAddr (br : BitVec 26) : Word := (br ++ (0 : BitVec 2)).signExtend 64

/-- CondBranchAddr: the 19-bit field with two zero bits appended, sign-extended (R92). -/
def condBranchAddr (cbr : BitVec 19) : Word := (cbr ++ (0 : BitVec 2)).signExtend 64

/-- DTAddr: the 9-bit byte offset, sign-extended, not scaled (R93). -/
def dtAddr (addr : BitVec 9) : Word := addr.signExtend 64

/-- The position 16 * hw of the quarter a move-wide acts on (R94, R160). -/
def quarterLo (hw : BitVec 2) : Nat := 16 * hw.toNat

/-- MOVImm in its place: the 16-bit immediate, zero-extended and shifted to its quarter (R94, R161). -/
def movImm (mov : BitVec 16) (hw : BitVec 2) : Word := mov.setWidth 64 <<< quarterLo hw

/-- `old` with one quarter replaced by the immediate, the other 48 bits kept (R162). -/
def movKeep (old : Word) (mov : BitVec 16) (hw : BitVec 2) : Word :=
  (old &&& ~~~((0xFFFF : Word) <<< quarterLo hw)) ||| movImm mov hw

end Sys2Proof.Machine
end

