-- ==== Sys2Proof/Machine/State.lean ====
section
/-! DEFINITION. The state of the machine (10_state.md R20), the reasons a step can stop, and the state after reset and
after a launch (R38, R340, R341). -/

namespace Sys2Proof.Machine

/-- The exception classes: exactly the ten of R300. -/
inductive ExcClass where
  /-- 0, Unknown: an unallocated word, a reserved condition (R301) -/
  | unknown
  /-- 7, SIMD/FP registers disabled: only with FP_ENABLED = false (R263) -/
  | simdDisabled
  /-- 14, Illegal Execution State: never raised (R305) -/
  | illegalState
  /-- 17, Supervisor Call: never raised (R305) -/
  | supervisorCall
  /-- 32, Instruction Abort: a fetch outside the image (R302) -/
  | instructionAbort
  /-- 34, Misaligned PC (R303) -/
  | misalignedPc
  /-- 36, Data Abort (R304) -/
  | dataAbort
  /-- 40, Floating-point exception: never raised (R305) -/
  | floatingPoint
  /-- 52, Data Breakpoint: never raised (R305) -/
  | dataBreakpoint
  /-- 56, SW Breakpoint: never raised (R305) -/
  | swBreakpoint
deriving DecidableEq, Repr

/-- What `raise` is given: the class, and the address where the rule names one (R302 to R304). -/
structure Exc where
  cls : ExcClass
  info : Option Word
deriving DecidableEq, Repr

/-- A taken exception: `fault(class, at_pc, info)` (R36, R310). -/
structure FaultRecord where
  cls : ExcClass
  atPc : Word
  info : Option Word
deriving DecidableEq, Repr

/-- Data memory: the bytes that differ from what an unlisted byte reads as, at strictly rising addresses (R34). -/
abbrev Memory := List Host.Cell

/-- The state. `x` is x[0] to x[30] (R21; x[31] has no storage, R22), `d` the floating-point file (R33), `monitor` the
exclusive monitor, none when clear (R35), `faultRecord` empty until an exception is taken (R36). `draws` counts the
free values taken so far (the model's own, log entry 10). `params` is what the launch fixed (R5, log entry 1). -/
structure State where
  x : Vector Word 31
  pc : Word
  flags : Flags
  d : Vector Word 32
  esr : Word32
  mem : Memory
  monitor : Option Word
  faultRecord : Option FaultRecord
  draws : Nat
  params : Params
deriving DecidableEq, Repr

/-- Why the machine has no further step. No instruction ends in one of these: the step answers them. -/
inductive Fault where
  /-- The normal end of a run, `done`: the fetch finds pc = EXIT_PC (R345). Raised by the step. Safe: nothing is
  claimed of what follows. -/
  | runEnded
  /-- An exception of this class was taken by an earlier step, and a machine with a fault record has no further step
  (R36, R310). Raised by the step. Safe: nothing is claimed of what follows. -/
  | faulted (cls : ExcClass)
deriving DecidableEq, Repr

/-- Why the model would give no meaning to an instruction. -/
inductive Refusal where
  /-- An instruction without a meaning in this model. No arm answers it: every row of the table has its meaning.
  Safe. -/
  | notModelled (mnemonic : String)
deriving DecidableEq, Repr

/-- What a meaning and a step answer. -/
abbrev Result := Host.Outcome State Fault Refusal

/-- The state a launch starts in (R38, R340): pc at ENTRY_PC, by default TEXT_BASE; the monitor clear; the fault
record empty; the rest as the launch gives it. -/
def State.ofLaunch (l : Launch) : State where
  x := l.regs.x
  pc := l.entryPc.getD l.params.textBase
  flags := l.regs.flags
  d := l.regs.d
  esr := l.regs.esr
  mem := l.data
  monitor := none
  faultRecord := none
  draws := 0
  params := l.params

/-- The machine after reset (R38): the launch with every default and no program. -/
def State.reset : State := State.ofLaunch Launch.default

end Sys2Proof.Machine
end

