-- ==== Sys2Proof/Machine/Ops.lean ====
section
/-! DEFINITION. The named operations over registers, memory, free values and exceptions that every meaning uses. -/

namespace Sys2Proof.Machine

/-! ## General registers -/

/-- Read general register `r`; x[31] reads 0 (R8, R22). -/
def State.readX (s : State) (r : Reg) : Word :=
  if h : r.toNat < 31 then s.x[r.toNat] else 0

/-- Write general register `r`; a write to x[31] is discarded (R8, R22). -/
def State.writeX (s : State) (r : Reg) (v : Word) : State :=
  if h : r.toNat < 31 then { s with x := s.x.set r.toNat v } else s

/-! ## Program counter and flags -/

/-- `pc <- t` (R24). -/
def State.setPc (s : State) (t : Word) : State := { s with pc := t }

/-- `pc <- pc + 4`, modulo 2^64 (R24). -/
def State.nextPc (s : State) : State := s.setPc (s.pc + 4)

/-- `flags <- (n, z, c, v)` (R25). -/
def State.setFlags (s : State) (f : Flags) : State := { s with flags := f }

/-- The end of an instruction that is no taken branch: the state with pc at the next instruction (R9). -/
def State.finish (s : State) : Result := .next s.nextPc

/-- A result written to `rd`, and pc at the next instruction. -/
def State.finishX (s : State) (rd : Reg) (v : Word) : Result := (s.writeX rd v).finish

/-- A result written to `rd`, all four flags written, and pc at the next instruction (R25, R120). -/
def State.finishXFlags (s : State) (rd : Reg) (r : Word × Flags) : Result := ((s.writeX rd r.1).setFlags r.2).finish

/-- A branch: to `pc + offset` when taken, else to the next instruction; offsets count from the branch itself
(R24, R171). -/
def State.branchIf (s : State) (taken : Bool) (offset : Word) : Result :=
  if taken then .next (s.setPc (s.pc + offset)) else s.finish

/-! ## Free values -/

/-- The next free value, and the state that has taken it (log entry 10). -/
def State.draw (s : State) : Word × State := (Config.draw s.draws, { s with draws := s.draws + 1 })

/-- The value of a parameter that is fixed or drawn; `ofDraw` reads a value from a free word. -/
def State.resolve {α : Type} (s : State) (c : Choice α) (ofDraw : Word → α) : α × State :=
  match c with
  | .fixed v => (v, s)
  | .draw => (ofDraw s.draw.1, s.draw.2)

/-- Four free flags, from the low bits of a free word. -/
def flagsOfDraw (w : Word) : Flags := ⟨w.getLsbD 3, w.getLsbD 2, w.getLsbD 1, w.getLsbD 0⟩

/-- Two free bits, from the low bits of a free word. -/
def pairOfDraw (w : Word) : Bool × Bool := (w.getLsbD 1, w.getLsbD 0)

/-! ## Floating-point registers -/

/-- Read `d[i]` (R33). -/
def State.readD (s : State) (i : Reg) : Word := s.d[i.toNat]'(by exact i.isLt)

/-- `d[i] <- v`: all 64 bits (R33). -/
def State.writeD (s : State) (i : Reg) (v : Word) : State := { s with d := s.d.set i.toNat v (by exact i.isLt) }

/-- Read `s[i]`: bits 31:0 of register i (R33). -/
def State.readS (s : State) (i : Reg) : Word32 := (s.readD i).setWidth 32

/-- A register of a high half and a low half. -/
def joinHalves (hi lo : Word32) : Word := hi ++ lo

/-- `s[i] <- v`: bits 31:0; bits 63:32 hold a free value (R33, U12, log entry 11). -/
def State.writeS (s : State) (i : Reg) (v : Word32) : State :=
  s.draw.2.writeD i (joinHalves (s.draw.1.extractLsb' 32 32) v)

/-! ## Exceptions -/

/-- The number of a class, as the EC field holds it (R300). -/
def ExcClass.number : ExcClass → BitVec 6
  | .unknown => 0
  | .simdDisabled => 7
  | .illegalState => 14
  | .supervisorCall => 17
  | .instructionAbort => 32
  | .misalignedPc => 34
  | .dataAbort => 36
  | .floatingPoint => 40
  | .dataBreakpoint => 52
  | .swBreakpoint => 56

/-- Unknown() (R301). -/
def Exc.unknown : Exc := ⟨.unknown, none⟩
/-- SIMD/FP registers disabled (R263). -/
def Exc.simdDisabled : Exc := ⟨.simdDisabled, none⟩
/-- InstructionAbort(pc) (R302). -/
def Exc.instructionAbort (pc : Word) : Exc := ⟨.instructionAbort, some pc⟩
/-- MisalignedPC(pc) (R303). -/
def Exc.misalignedPc (pc : Word) : Exc := ⟨.misalignedPc, some pc⟩
/-- DataAbort(addr) (R304; which address: log entry 22). -/
def Exc.dataAbort (addr : Word) : Exc := ⟨.dataAbort, some addr⟩

/-- ESR as an exception writes it: EC the class, IL = 1, ISS a free value (R310 to R312, log entry 12). -/
def esrOf (cls : ExcClass) (iss : BitVec 25) : Word32 := cls.number ++ (1 : BitVec 1) ++ iss

/-- Taking an exception (R310): ESR written, the monitor cleared, the fault record set with the pc of the raising
instruction, and nothing else changed. There is no handler and no return (R316). -/
def State.takeException (s : State) (e : Exc) : State :=
  { s.draw.2 with
    esr := esrOf e.cls (s.draw.1.setWidth 25)
    monitor := none
    faultRecord := some ⟨e.cls, s.pc, e.info⟩ }

/-- An instruction that raises: the next state is the one that has taken the exception (R310). -/
def State.raise (s : State) (e : Exc) : Result := .next (s.takeException e)

/-- A floating-point instruction: with FP_ENABLED false it raises class 7 before any register or memory access
(R263, R314). -/
def State.withFp (s : State) (run : Result) : Result :=
  if s.params.fpEnabled then run else s.raise .simdDisabled

/-! ## Data memory -/

/-- The form of data memory: addresses of 64 bits strictly rising, and no entry an unlisted byte would read as. -/
abbrev Memory.wf (m : Memory) : Prop :=
  m.Pairwise (fun a b => a.1 < b.1) ∧ ∀ c ∈ m, c.1 < 0x10000000000000000 ∧ c.2 ≠ Config.unlistedByte

/-- The byte at an address. -/
def Memory.read (m : Memory) (a : Nat) : Byte :=
  match m with
  | [] => Config.unlistedByte
  | (k, v) :: rest => if k = a then v else Memory.read rest a

/-- The entry for a byte, where it needs one, before the entries of `rest`. -/
def Memory.entry (a : Nat) (b : Byte) (rest : Memory) : Memory :=
  if b = Config.unlistedByte then rest else (a, b) :: rest

/-- The memory with one byte written. -/
def Memory.write (m : Memory) (a : Nat) (b : Byte) : Memory :=
  match m with
  | [] => Memory.entry a b []
  | (k, v) :: rest =>
    if a < k then Memory.entry a b ((k, v) :: rest)
    else if a = k then Memory.entry a b rest
    else (k, v) :: Memory.write rest a b

/-- The `n` bytes at rising addresses from `addr` on, addresses modulo 2^64 (R52, R59). -/
def Memory.readBytes (m : Memory) (addr : Word) : Nat → List Byte
  | 0 => []
  | n + 1 => m.read addr.toNat :: Memory.readBytes m (addr + 1) n

/-- The memory with these bytes written at rising addresses from `addr` on, addresses modulo 2^64 (R53, R59). -/
def Memory.writeBytes (m : Memory) (addr : Word) : List Byte → Memory
  | [] => m
  | b :: bs => Memory.writeBytes (m.write addr.toNat b) (addr + 1) bs

/-- The n-byte value at an address, zero-extended to 64 bits (R52). -/
def Memory.load (m : Memory) (o : ByteOrder) (addr : Word) (n : Nat) : Word :=
  joinBE (o.arrange (m.readBytes addr n))

/-- The memory with the low `n` bytes of `v` stored at an address (R53). -/
def Memory.store (m : Memory) (o : ByteOrder) (addr : Word) (n : Nat) (v : Word) : Memory :=
  m.writeBytes addr (o.arrange (bytesBE n v))

/-- Whether MEM_MAP holds a byte address (R59). -/
def mapped (p : Params) (a : Word) : Bool :=
  p.memMap.any fun r => decide (r.base ≤ a.toNat) && decide (a.toNat < r.base + r.size)

/-- Whether MEM_MAP holds every byte of an access, addresses modulo 2^64 (R52, R59). -/
def allMapped (p : Params) (addr : Word) : Nat → Bool
  | 0 => true
  | n + 1 => mapped p addr && allMapped p (addr + 1) n

/-- Whether an address is a multiple of the access size (R54). -/
def aligned (addr : Word) (n : Nat) : Bool := addr.toNat % n == 0

/-- Whether alignment lets an access of `n` bytes through: natural alignment, or MISALIGNED = split; never a split for
LDXR and STXR (R54). -/
def alignmentOk (p : Params) (exclusive : Bool) (addr : Word) (n : Nat) : Bool :=
  aligned addr n || (p.misaligned == .split && !exclusive)

/-- The checks of an access, before any byte moves: alignment, then MEM_MAP (R52, R54, R59, R304, R314). -/
def accessOk (p : Params) (exclusive : Bool) (addr : Word) (n : Nat) : Bool :=
  alignmentOk p exclusive addr n && allMapped p addr n

/-- A load of `n` bytes at `addr`: Data Abort, or `use` of the value and pc at the next instruction (R52, R190). -/
def State.loadThen (s : State) (exclusive : Bool) (addr : Word) (n : Nat) (use : Word → State) : Result :=
  if accessOk s.params exclusive addr n then (use (s.mem.load s.params.byteOrder addr n)).finish
  else s.raise (.dataAbort addr)

/-- Data memory with the low `n` bytes of `v` stored (R53). -/
def State.storeMem (s : State) (addr : Word) (n : Nat) (v : Word) : State :=
  { s with mem := s.mem.store s.params.byteOrder addr n v }

/-- A store of the low `n` bytes of `v` at `addr`: Data Abort, or the store and pc at the next instruction
(R53, R190). -/
def State.storeThen (s : State) (addr : Word) (n : Nat) (v : Word) : Result :=
  if accessOk s.params false addr n then (s.storeMem addr n v).finish
  else s.raise (.dataAbort addr)

/-- `monitor <- m` (R35). -/
def State.setMonitor (s : State) (m : Option Word) : State := { s with monitor := m }

/-- The spurious_failure input of STXR: free under STXR_SPURIOUS_FAIL, false without it (R212, log entry 19). -/
def State.spurious (s : State) : Bool × State :=
  if s.params.stxrSpurious then (s.draw.1.getLsbD 0, s.draw.2) else (false, s)

/-- The address of a D-format access: base register plus signed byte offset, modulo 2^64 (R190). -/
def State.dAddr (s : State) (rn : Reg) (addr : BitVec 9) : Word := s.readX rn + dtAddr addr

end Sys2Proof.Machine
end

