-- ==== Sys2Proof/Machine/Arithmetic.lean ====
section
/-! DEFINITION. Integer add and subtract (40_arithmetic.md R120 to R128). -/

namespace Sys2Proof.Machine

/-- ADD (R121). -/
def execAdd (rd rn rm : Reg) (s : State) : Result := s.finishX rd (s.readX rn + s.readX rm)

/-- ADDI (R122). -/
def execAddi (rd rn : Reg) (imm : BitVec 12) (s : State) : Result := s.finishX rd (s.readX rn + aluImm imm)

/-- ADDS (R123). -/
def execAdds (rd rn rm : Reg) (s : State) : Result := s.finishXFlags rd (addFlags (s.readX rn) (s.readX rm))

/-- ADDIS (R124). -/
def execAddis (rd rn : Reg) (imm : BitVec 12) (s : State) : Result :=
  s.finishXFlags rd (addFlags (s.readX rn) (aluImm imm))

/-- SUB (R125). -/
def execSub (rd rn rm : Reg) (s : State) : Result := s.finishX rd (s.readX rn - s.readX rm)

/-- SUBI (R126). -/
def execSubi (rd rn : Reg) (imm : BitVec 12) (s : State) : Result := s.finishX rd (s.readX rn - aluImm imm)

/-- SUBS (R127). -/
def execSubs (rd rn rm : Reg) (s : State) : Result := s.finishXFlags rd (subFlags (s.readX rn) (s.readX rm))

/-- SUBIS (R128). -/
def execSubis (rd rn : Reg) (imm : BitVec 12) (s : State) : Result :=
  s.finishXFlags rd (subFlags (s.readX rn) (aluImm imm))

end Sys2Proof.Machine
end

