-- ==== Sys2Proof/Machine/Branch.lean ====
section
/-! DEFINITION. Control transfer (43_branch.md R170 to R178). -/

namespace Sys2Proof.Machine

/-- B (R170). -/
def execB (br : BitVec 26) (s : State) : Result := .next (s.setPc (s.pc + branchAddr br))

/-- BL: the link register receives pc + 4 of the BL itself (R172). -/
def execBl (br : BitVec 26) (s : State) : Result :=
  .next ((s.writeX Reg.lr (s.pc + 4)).setPc (s.pc + branchAddr br))

/-- BR: all 64 bits are taken (R173). -/
def execBr (rn : Reg) (s : State) : Result := .next (s.setPc (s.readX rn))

/-- B.cond: the condition read from the flags (R175, R176). -/
def bCond (c : Cond) (cbr : BitVec 19) (s : State) : Result := s.branchIf (condHolds c s.flags) (condBranchAddr cbr)

/-- B.EQ (R175, R176). -/
def execBEq (cbr : BitVec 19) (s : State) : Result := bCond .eq cbr s

/-- B.NE (R175, R176). -/
def execBNe (cbr : BitVec 19) (s : State) : Result := bCond .ne cbr s

/-- B.HS (R175, R176). -/
def execBHs (cbr : BitVec 19) (s : State) : Result := bCond .hs cbr s

/-- B.LO (R175, R176). -/
def execBLo (cbr : BitVec 19) (s : State) : Result := bCond .lo cbr s

/-- B.MI (R175, R176). -/
def execBMi (cbr : BitVec 19) (s : State) : Result := bCond .mi cbr s

/-- B.PL (R175, R176). -/
def execBPl (cbr : BitVec 19) (s : State) : Result := bCond .pl cbr s

/-- B.VS (R175, R176). -/
def execBVs (cbr : BitVec 19) (s : State) : Result := bCond .vs cbr s

/-- B.VC (R175, R176). -/
def execBVc (cbr : BitVec 19) (s : State) : Result := bCond .vc cbr s

/-- B.HI (R175, R176). -/
def execBHi (cbr : BitVec 19) (s : State) : Result := bCond .hi cbr s

/-- B.LS (R175, R176). -/
def execBLs (cbr : BitVec 19) (s : State) : Result := bCond .ls cbr s

/-- B.GE (R175, R176). -/
def execBGe (cbr : BitVec 19) (s : State) : Result := bCond .ge cbr s

/-- B.LT (R175, R176). -/
def execBLt (cbr : BitVec 19) (s : State) : Result := bCond .lt cbr s

/-- B.GT (R175, R176). -/
def execBGt (cbr : BitVec 19) (s : State) : Result := bCond .gt cbr s

/-- B.LE (R175, R176). -/
def execBLe (cbr : BitVec 19) (s : State) : Result := bCond .le cbr s

/-- CBZ: all 64 bits are tested (R177). -/
def execCbz (rt : Reg) (cbr : BitVec 19) (s : State) : Result := s.branchIf (s.readX rt == 0) (condBranchAddr cbr)

/-- CBNZ (R178). -/
def execCbnz (rt : Reg) (cbr : BitVec 19) (s : State) : Result := s.branchIf (s.readX rt != 0) (condBranchAddr cbr)

end Sys2Proof.Machine
end

