-- ==== Sys2Proof/Machine/Exclusive.lean ====
section
/-! DEFINITION. The exclusive pair (45_exclusive.md R210 to R213). -/

namespace Sys2Proof.Machine

/-- LDXR: a double word, and the monitor armed at its address; misaligned it is a Data Abort under either setting of
MISALIGNED (R211). -/
def execLdxr (rt rn : Reg) (addr : BitVec 9) (s : State) : Result :=
  s.loadThen true (s.dAddr rn addr) 8 fun v => (s.setMonitor (some (s.dAddr rn addr))).writeX rt v

/-- STXR's status in `rm`, the monitor cleared, and pc at the next instruction (R212, R213). -/
def finishStxr (rm : Reg) (status : Word) (s : State) : Result := ((s.setMonitor none).writeX rm status).finish

/-- STXR: no offset. The store happens only where the monitor is armed at the address and the STXR does not fail
spuriously; MEM_MAP is checked on that path alone; the value and the address are read before the status is written
(R212). -/
def execStxr (rt rm rn : Reg) (s : State) : Result :=
  if aligned (s.readX rn) 8 then
    if s.monitor = some (s.readX rn) ∧ s.spurious.1 = false then
      if allMapped s.params (s.readX rn) 8 then
        finishStxr rm 0 (s.spurious.2.storeMem (s.readX rn) 8 (s.readX rt))
      else s.spurious.2.raise (.dataAbort (s.readX rn))
    else finishStxr rm 1 s.spurious.2
  else s.raise (.dataAbort (s.readX rn))

end Sys2Proof.Machine
end

