-- ==== Sys2Proof/Machine/FloatingPoint.lean ====
section
/-! DEFINITION. Floating-point arithmetic, compares and transfers (47_floating_point.md R242 to R261). -/

namespace Sys2Proof.Machine

/-- A single-precision NaN by the policy: a free one, or ARMv8's default (R251, log entry 13). -/
def nanResult32 (policy : NanPolicy) (s : State) : Word32 × State :=
  match policy with
  | .armDefault => (0x7FC00000, s)
  | .draw => (nanOf32 (s.draw.1.setWidth 32), s.draw.2)

/-- A double-precision NaN by the policy. -/
def nanResult64 (policy : NanPolicy) (s : State) : Word × State :=
  match policy with
  | .armDefault => (0x7FF8000000000000, s)
  | .draw => (nanOf64 s.draw.1, s.draw.2)

/-- A single-precision operation under FP_NUMERICS (R251). -/
def fpArith32 (op : FpOp) (a b : Word32) (s : State) : Word32 × State :=
  match s.params.fpNumerics with
  | .other k => (Config.fpOther32 k op a b, s)
  | .ieee policy =>
    match FpFormat.single.arith op a.toNat b.toNat with
    | some bits => (BitVec.ofNat 32 bits, s)
    | none => nanResult32 policy s

/-- A double-precision operation under FP_NUMERICS (R251). -/
def fpArith64 (op : FpOp) (a b : Word) (s : State) : Word × State :=
  match s.params.fpNumerics with
  | .other k => (Config.fpOther64 k op a b, s)
  | .ieee policy =>
    match FpFormat.double.arith op a.toNat b.toNat with
    | some bits => (BitVec.ofNat 64 bits, s)
    | none => nanResult64 policy s

/-- `s[rd] <- s[rn] op s[rm]` (R250). -/
def fpSingle (op : FpOp) (rd rn rm : Reg) (s : State) : Result :=
  s.withFp (((fpArith32 op (s.readS rn) (s.readS rm) s).2.writeS rd (fpArith32 op (s.readS rn) (s.readS rm) s).1).finish)

/-- `d[rd] <- d[rn] op d[rm]` (R250). -/
def fpDouble (op : FpOp) (rd rn rm : Reg) (s : State) : Result :=
  s.withFp (((fpArith64 op (s.readD rn) (s.readD rm) s).2.writeD rd (fpArith64 op (s.readD rn) (s.readD rm) s).1).finish)

/-- The flags of a compare: note (10)'s pattern, or FCMP_UNORDERED_FLAGS for a NaN (R256, log entry 18). -/
def fcmpFlags (rel : FpRel) (s : State) : Flags × State :=
  match rel.flags with
  | some f => (f, s)
  | none => s.resolve s.params.fcmpUnordered flagsOfDraw

/-- A compare: the four flags, and no register (R254, R255). -/
def fpCompareInto (rel : FpRel) (s : State) : Result :=
  s.withFp ((fcmpFlags rel s).2.setFlags (fcmpFlags rel s).1).finish

/-- FMULS (R244). -/
def execFmuls (rd rn rm : Reg) (s : State) : Result := fpSingle .mul rd rn rm s

/-- FDIVS (R245). -/
def execFdivs (rd rn rm : Reg) (s : State) : Result := fpSingle .div rd rn rm s

/-- FADDS (R242). -/
def execFadds (rd rn rm : Reg) (s : State) : Result := fpSingle .add rd rn rm s

/-- FSUBS (R243). -/
def execFsubs (rd rn rm : Reg) (s : State) : Result := fpSingle .sub rd rn rm s

/-- FMULD (R248). -/
def execFmuld (rd rn rm : Reg) (s : State) : Result := fpDouble .mul rd rn rm s

/-- FDIVD (R249). -/
def execFdivd (rd rn rm : Reg) (s : State) : Result := fpDouble .div rd rn rm s

/-- FADDD (R246). -/
def execFaddd (rd rn rm : Reg) (s : State) : Result := fpDouble .add rd rn rm s

/-- FSUBD (R247). -/
def execFsubd (rd rn rm : Reg) (s : State) : Result := fpDouble .sub rd rn rm s

/-- FCMPS (R254). -/
def execFcmps (rn rm : Reg) (s : State) : Result :=
  fpCompareInto (fpCompare (FpFormat.single.value (s.readS rn).toNat) (FpFormat.single.value (s.readS rm).toNat)) s

/-- FCMPD (R255). -/
def execFcmpd (rn rm : Reg) (s : State) : Result :=
  fpCompareInto (fpCompare (FpFormat.double.value (s.readD rn).toNat) (FpFormat.double.value (s.readD rm).toNat)) s

/-- LDURS: four bytes into s[rt] (R257, R258). -/
def execLdurs (rt rn : Reg) (addr : BitVec 9) (s : State) : Result :=
  s.withFp (s.loadThen false (s.dAddr rn addr) 4 fun v => s.writeS rt (v.setWidth 32))

/-- LDURD: eight bytes into d[rt] (R257, R259). -/
def execLdurd (rt rn : Reg) (addr : BitVec 9) (s : State) : Result :=
  s.withFp (s.loadThen false (s.dAddr rn addr) 8 (s.writeD rt))

/-- STURS: the four bytes of s[rt] (R257, R260). -/
def execSturs (rt rn : Reg) (addr : BitVec 9) (s : State) : Result :=
  s.withFp (s.storeThen (s.dAddr rn addr) 4 ((s.readS rt).setWidth 64))

/-- STURD: the eight bytes of d[rt] (R257, R261). -/
def execSturd (rt rn : Reg) (addr : BitVec 9) (s : State) : Result :=
  s.withFp (s.storeThen (s.dAddr rn addr) 8 (s.readD rt))

end Sys2Proof.Machine
end

