-- ==== Sys2Proof/Machine/LoadStore.lean ====
section
/-! DEFINITION. Integer loads and stores (44_load_store.md R190 to R198). -/

namespace Sys2Proof.Machine

/-- LDUR: a double word (R191). -/
def execLdur (rt rn : Reg) (addr : BitVec 9) (s : State) : Result :=
  s.loadThen false (s.dAddr rn addr) 8 (s.writeX rt)

/-- LDURB: a byte, zero-extended (R192). -/
def execLdurb (rt rn : Reg) (addr : BitVec 9) (s : State) : Result :=
  s.loadThen false (s.dAddr rn addr) 1 fun v => s.writeX rt ((v.setWidth 8).setWidth 64)

/-- LDURH: a halfword, zero-extended (R193). -/
def execLdurh (rt rn : Reg) (addr : BitVec 9) (s : State) : Result :=
  s.loadThen false (s.dAddr rn addr) 2 fun v => s.writeX rt ((v.setWidth 16).setWidth 64)

/-- LDURSW: a word, sign-extended (R194). -/
def execLdursw (rt rn : Reg) (addr : BitVec 9) (s : State) : Result :=
  s.loadThen false (s.dAddr rn addr) 4 fun v => s.writeX rt ((v.setWidth 32).signExtend 64)

/-- STUR: a double word (R195). -/
def execStur (rt rn : Reg) (addr : BitVec 9) (s : State) : Result :=
  s.storeThen (s.dAddr rn addr) 8 (s.readX rt)

/-- STURB: the low byte of the register (R196). -/
def execSturb (rt rn : Reg) (addr : BitVec 9) (s : State) : Result :=
  s.storeThen (s.dAddr rn addr) 1 (s.readX rt)

/-- STURH: the low halfword of the register (R197). -/
def execSturh (rt rn : Reg) (addr : BitVec 9) (s : State) : Result :=
  s.storeThen (s.dAddr rn addr) 2 (s.readX rt)

/-- STURW: the low word of the register (R198). -/
def execSturw (rt rn : Reg) (addr : BitVec 9) (s : State) : Result :=
  s.storeThen (s.dAddr rn addr) 4 (s.readX rt)

end Sys2Proof.Machine
end

