-- ==== Sys2Proof/Machine/Logical.lean ====
section
/-! DEFINITION. Logical and shift instructions (41_logical_shift.md R140 to R151). -/

namespace Sys2Proof.Machine

/-- A logical result written to `rd` with its flags; C and V as LOGICAL_FLAGS_CV gives them (R30, log entry 17). -/
def finishLogical (rd : Reg) (r : Word) (s : State) : Result :=
  (s.resolve s.params.logicalCV pairOfDraw).2.finishXFlags rd
    (r, logicalFlags r (s.resolve s.params.logicalCV pairOfDraw).1)

/-- AND (R141). -/
def execAnd (rd rn rm : Reg) (s : State) : Result := s.finishX rd (s.readX rn &&& s.readX rm)

/-- ANDI (R142). -/
def execAndi (rd rn : Reg) (imm : BitVec 12) (s : State) : Result := s.finishX rd (s.readX rn &&& aluImm imm)

/-- ANDS (R143). -/
def execAnds (rd rn rm : Reg) (s : State) : Result := finishLogical rd (s.readX rn &&& s.readX rm) s

/-- ANDIS (R144). -/
def execAndis (rd rn : Reg) (imm : BitVec 12) (s : State) : Result := finishLogical rd (s.readX rn &&& aluImm imm) s

/-- ORR (R145). -/
def execOrr (rd rn rm : Reg) (s : State) : Result := s.finishX rd (s.readX rn ||| s.readX rm)

/-- ORRI (R146). -/
def execOrri (rd rn : Reg) (imm : BitVec 12) (s : State) : Result := s.finishX rd (s.readX rn ||| aluImm imm)

/-- EOR (R147). -/
def execEor (rd rn rm : Reg) (s : State) : Result := s.finishX rd (s.readX rn ^^^ s.readX rm)

/-- EORI (R148). -/
def execEori (rd rn : Reg) (imm : BitVec 12) (s : State) : Result := s.finishX rd (s.readX rn ^^^ aluImm imm)

/-- LSL (R150). -/
def execLsl (rd rn : Reg) (shamt : BitVec 6) (s : State) : Result := s.finishX rd (s.readX rn <<< shamt.toNat)

/-- LSR: zeros enter at bit 63 (R151). -/
def execLsr (rd rn : Reg) (shamt : BitVec 6) (s : State) : Result := s.finishX rd (s.readX rn >>> shamt.toNat)

end Sys2Proof.Machine
end

