-- ==== Sys2Proof/Machine/MoveWide.lean ====
section
/-! DEFINITION. Move wide (42_move_wide.md R160 to R162). -/

namespace Sys2Proof.Machine

/-- MOVZ (R161). -/
def execMovz (rd : Reg) (mov : BitVec 16) (hw : BitVec 2) (s : State) : Result := s.finishX rd (movImm mov hw)

/-- MOVK: the old value of the register is kept outside the quarter (R162). -/
def execMovk (rd : Reg) (mov : BitVec 16) (hw : BitVec 2) (s : State) : Result :=
  s.finishX rd (movKeep (s.readX rd) mov hw)

end Sys2Proof.Machine
end

