-- ==== Sys2Proof/Machine/MulDiv.lean ====
section
/-! DEFINITION. Multiply and divide (46_multiply_divide.md R220 to R225). -/

namespace Sys2Proof.Machine

/-- Bits 127:64 of the two's-complement product (R222). -/
def mulHighSigned (a b : Word) : Word := (BitVec.ofInt 128 (a.toInt * b.toInt)).extractLsb' 64 64

/-- Bits 127:64 of the unsigned product (R223). -/
def mulHighUnsigned (a b : Word) : Word := BitVec.ofNat 64 (a.toNat * b.toNat / 0x10000000000000000)

/-- The quotient rounded toward zero (R224). -/
def quotSigned (a b : Word) : Word := BitVec.ofInt 64 (a.toInt.tdiv b.toInt)

/-- The quotient of the unsigned values (R225). -/
def quotUnsigned (a b : Word) : Word := BitVec.ofNat 64 (a.toNat / b.toNat)

/-- A result a parameter gives, fixed or free, written to `rd` (DIV_BY_ZERO, SDIV_OVERFLOW; log entry 16). -/
def finishChoice (rd : Reg) (c : Choice Word) (s : State) : Result :=
  (s.resolve c id).2.finishX rd (s.resolve c id).1

/-- MUL (R221). -/
def execMul (rd rn rm : Reg) (s : State) : Result := s.finishX rd (s.readX rn * s.readX rm)

/-- SMULH (R222). -/
def execSmulh (rd rn rm : Reg) (s : State) : Result := s.finishX rd (mulHighSigned (s.readX rn) (s.readX rm))

/-- UMULH (R223). -/
def execUmulh (rd rn rm : Reg) (s : State) : Result := s.finishX rd (mulHighUnsigned (s.readX rn) (s.readX rm))

/-- SDIV: a zero divisor and -2^63 / -1 take the value of their parameter, and nothing traps (R224). -/
def execSdiv (rd rn rm : Reg) (s : State) : Result :=
  if s.readX rm = 0 then finishChoice rd s.params.divByZero s
  else if s.readX rn = 0x8000000000000000 ∧ s.readX rm = 0xFFFFFFFFFFFFFFFF then
    finishChoice rd s.params.sdivOverflow s
  else s.finishX rd (quotSigned (s.readX rn) (s.readX rm))

/-- UDIV: a zero divisor takes DIV_BY_ZERO (R225). -/
def execUdiv (rd rn rm : Reg) (s : State) : Result :=
  if s.readX rm = 0 then finishChoice rd s.params.divByZero s
  else s.finishX rd (quotUnsigned (s.readX rn) (s.readX rm))

end Sys2Proof.Machine
end

