-- ==== Sys2Proof/Machine/Dispatch.lean ====
section
/-! DEFINITION. exec: one arm per instruction, each one call of its meaning. -/

namespace Sys2Proof.Machine

/-- What an instruction does (R343: execute the row's rule). -/
def exec (i : Instr) (s : State) : Host.Outcome State Fault Refusal :=
  match i with
  | .b br => Sys2Proof.Machine.execB br s
  | .fmuls rd rn rm => Sys2Proof.Machine.execFmuls rd rn rm s
  | .fdivs rd rn rm => Sys2Proof.Machine.execFdivs rd rn rm s
  | .fcmps rn rm => Sys2Proof.Machine.execFcmps rn rm s
  | .fadds rd rn rm => Sys2Proof.Machine.execFadds rd rn rm s
  | .fsubs rd rn rm => Sys2Proof.Machine.execFsubs rd rn rm s
  | .fmuld rd rn rm => Sys2Proof.Machine.execFmuld rd rn rm s
  | .fdivd rd rn rm => Sys2Proof.Machine.execFdivd rd rn rm s
  | .fcmpd rn rm => Sys2Proof.Machine.execFcmpd rn rm s
  | .faddd rd rn rm => Sys2Proof.Machine.execFaddd rd rn rm s
  | .fsubd rd rn rm => Sys2Proof.Machine.execFsubd rd rn rm s
  | .sturb rt rn addr => Sys2Proof.Machine.execSturb rt rn addr s
  | .ldurb rt rn addr => Sys2Proof.Machine.execLdurb rt rn addr s
  | .bEq cbr => Sys2Proof.Machine.execBEq cbr s
  | .bNe cbr => Sys2Proof.Machine.execBNe cbr s
  | .bHs cbr => Sys2Proof.Machine.execBHs cbr s
  | .bLo cbr => Sys2Proof.Machine.execBLo cbr s
  | .bMi cbr => Sys2Proof.Machine.execBMi cbr s
  | .bPl cbr => Sys2Proof.Machine.execBPl cbr s
  | .bVs cbr => Sys2Proof.Machine.execBVs cbr s
  | .bVc cbr => Sys2Proof.Machine.execBVc cbr s
  | .bHi cbr => Sys2Proof.Machine.execBHi cbr s
  | .bLs cbr => Sys2Proof.Machine.execBLs cbr s
  | .bGe cbr => Sys2Proof.Machine.execBGe cbr s
  | .bLt cbr => Sys2Proof.Machine.execBLt cbr s
  | .bGt cbr => Sys2Proof.Machine.execBGt cbr s
  | .bLe cbr => Sys2Proof.Machine.execBLe cbr s
  | .sturh rt rn addr => Sys2Proof.Machine.execSturh rt rn addr s
  | .ldurh rt rn addr => Sys2Proof.Machine.execLdurh rt rn addr s
  | .and rd rn rm => Sys2Proof.Machine.execAnd rd rn rm s
  | .add rd rn rm => Sys2Proof.Machine.execAdd rd rn rm s
  | .addi rd rn imm => Sys2Proof.Machine.execAddi rd rn imm s
  | .andi rd rn imm => Sys2Proof.Machine.execAndi rd rn imm s
  | .bl br => Sys2Proof.Machine.execBl br s
  | .sdiv rd rn rm => Sys2Proof.Machine.execSdiv rd rn rm s
  | .udiv rd rn rm => Sys2Proof.Machine.execUdiv rd rn rm s
  | .mul rd rn rm => Sys2Proof.Machine.execMul rd rn rm s
  | .smulh rd rn rm => Sys2Proof.Machine.execSmulh rd rn rm s
  | .umulh rd rn rm => Sys2Proof.Machine.execUmulh rd rn rm s
  | .orr rd rn rm => Sys2Proof.Machine.execOrr rd rn rm s
  | .adds rd rn rm => Sys2Proof.Machine.execAdds rd rn rm s
  | .addis rd rn imm => Sys2Proof.Machine.execAddis rd rn imm s
  | .orri rd rn imm => Sys2Proof.Machine.execOrri rd rn imm s
  | .cbz rt cbr => Sys2Proof.Machine.execCbz rt cbr s
  | .cbnz rt cbr => Sys2Proof.Machine.execCbnz rt cbr s
  | .sturw rt rn addr => Sys2Proof.Machine.execSturw rt rn addr s
  | .ldursw rt rn addr => Sys2Proof.Machine.execLdursw rt rn addr s
  | .sturs rt rn addr => Sys2Proof.Machine.execSturs rt rn addr s
  | .ldurs rt rn addr => Sys2Proof.Machine.execLdurs rt rn addr s
  | .stxr rt rm rn => Sys2Proof.Machine.execStxr rt rm rn s
  | .ldxr rt rn addr => Sys2Proof.Machine.execLdxr rt rn addr s
  | .eor rd rn rm => Sys2Proof.Machine.execEor rd rn rm s
  | .sub rd rn rm => Sys2Proof.Machine.execSub rd rn rm s
  | .subi rd rn imm => Sys2Proof.Machine.execSubi rd rn imm s
  | .eori rd rn imm => Sys2Proof.Machine.execEori rd rn imm s
  | .movz rd mov hw => Sys2Proof.Machine.execMovz rd mov hw s
  | .lsr rd rn shamt => Sys2Proof.Machine.execLsr rd rn shamt s
  | .lsl rd rn shamt => Sys2Proof.Machine.execLsl rd rn shamt s
  | .br rn => Sys2Proof.Machine.execBr rn s
  | .ands rd rn rm => Sys2Proof.Machine.execAnds rd rn rm s
  | .subs rd rn rm => Sys2Proof.Machine.execSubs rd rn rm s
  | .subis rd rn imm => Sys2Proof.Machine.execSubis rd rn imm s
  | .andis rd rn imm => Sys2Proof.Machine.execAndis rd rn imm s
  | .movk rd mov hw => Sys2Proof.Machine.execMovk rd mov hw s
  | .stur rt rn addr => Sys2Proof.Machine.execStur rt rn addr s
  | .ldur rt rn addr => Sys2Proof.Machine.execLdur rt rn addr s
  | .sturd rt rn addr => Sys2Proof.Machine.execSturd rt rn addr s
  | .ldurd rt rn addr => Sys2Proof.Machine.execLdurd rt rn addr s

end Sys2Proof.Machine
end

