-- ==== Sys2Proof/Machine/Fetch.lean ====
section
/-! DEFINITION. Fetching an instruction word from the program image (20_memory.md R60; 70_reset_and_hazards.md R345),
and placing one there. -/

namespace Sys2Proof.Machine

/-- EXIT_PC: as the launch gives it, else the address just past the image (R345). -/
def exitPc (p : Params) : Word := p.exitPc.getD (p.textBase + BitVec.ofNat 64 (4 * p.text.length))

/-- What a fetch finds. -/
inductive Fetched where
  /-- a word of the image -/
  | word (w : Word32)
  /-- EXIT_PC: the run is over -/
  | ended
  /-- the fetch raises -/
  | raises (e : Exc)
deriving DecidableEq, Repr

/-- The fetch at `pc` (R60): alignment first, then EXIT_PC, then the image (R314; log entry 21). A pc inside the image is
one whose index lies below TEXT_WORDS. -/
def fetch (p : Params) (pc : Word) : Fetched :=
  if pc.toNat % 4 ≠ 0 then .raises (.misalignedPc pc)
  else if pc = exitPc p then .ended
  else if pc.toNat < p.textBase.toNat then .raises (.instructionAbort pc)
  else match p.text[(pc.toNat - p.textBase.toNat) / 4]? with
    | some w => .word w
    | none => .raises (.instructionAbort pc)

/-- The parameters with `w` as the word a fetch at the aligned address `pc` finds: its word of the image replaced where
`pc` lies in the image, else a one-word image at `pc` with the default EXIT_PC (log entry 2). -/
def placeWord (p : Params) (pc : Word) (w : Word32) : Params :=
  match fetch p pc with
  | .word _ => { p with text := p.text.set ((pc.toNat - p.textBase.toNat) / 4) w }
  | _ => { p with textBase := pc, text := [w], exitPc := none }

/-- The multiple of 4 at or below an address. -/
def alignPc (pc : Word) : Word := pc &&& 0xFFFFFFFFFFFFFFFC

end Sys2Proof.Machine
end

