-- ==== Sys2Proof/Machine/Step.lean ====
section
/-! DEFINITION. One step of the machine (70_reset_and_hazards.md R343), and placing the instruction it fetches next. -/

namespace Sys2Proof.Machine

/-- One step (R343): no step from a state with a fault record (R36); the fetch, which may end the run or raise; the
decode, which may raise Unknown (R301); the instruction. -/
def step (s : State) : Host.Outcome State Fault Refusal :=
  match s.faultRecord with
  | some r => .fault (.faulted r.cls)
  | none =>
    match fetch s.params s.pc with
    | .ended => .fault .runEnded
    | .raises e => s.raise e
    | .word w =>
      match decodeFor s.params w with
      | .error _ => s.raise .unknown
      | .ok i => exec i s

/-- `s` with the instruction whose bits are `w` in the program image where the next step fetches: the load of a program
from outside the machine (log entry 2). The pc must be a multiple of 4 for a fetch, and a fetch needs an empty fault
record; both already hold of a state that can step. -/
def State.withFetchWord (s : State) (nbits w : Nat) : State :=
  { s with
    pc := alignPc s.pc
    faultRecord := none
    params := placeWord s.params (alignPc s.pc) (BitVec.ofNat 32 (w % 2 ^ nbits)) }

end Sys2Proof.Machine
end

