-- ==== Sys2Proof/Safety.lean ====
section
/-! DEFINITION. The terms claims are stated in: what an access needs, what a state keeps, the invariant of a run, and how a
run ends. -/

namespace Sys2Proof.Machine

/-! ## What an instruction leaves alone -/

/-- Every general register reads as before. -/
def SameX (s t : State) : Prop := ∀ r, t.readX r = s.readX r

/-- Every floating-point register reads as before. -/
def SameD (s t : State) : Prop := ∀ i, t.readD i = s.readD i

/-- Every byte of data memory reads as before. -/
def SameMemory (s t : State) : Prop := ∀ a : Word, t.mem.read a.toNat = s.mem.read a.toNat

/-- ESR, the fault record and the launch's parameters are as before. -/
structure SameSystem (s t : State) : Prop where
  esr : t.esr = s.esr
  faultRecord : t.faultRecord = s.faultRecord
  params : t.params = s.params

/-- General register `rd` holds `v`, unless it is XZR, which still reads 0; every other general register reads as
before. -/
def WritesX (s t : State) (rd : Reg) (v : Word) : Prop :=
  ∀ r, t.readX r = if r = rd ∧ r ≠ 31 then v else s.readX r

/-- The frame of an instruction that writes a general register and the pc, and nothing else but perhaps the flags. -/
structure OnlyX (s t : State) (rd : Reg) (v : Word) : Prop where
  x : WritesX s t rd v
  pc : t.pc = s.pc + 4
  d : SameD s t
  mem : SameMemory s t
  monitor : t.monitor = s.monitor
  system : SameSystem s t

/-- The frame of an instruction that writes the pc alone. -/
structure OnlyPc (s t : State) (pc : Word) : Prop where
  pc : t.pc = pc
  x : SameX s t
  flags : t.flags = s.flags
  d : SameD s t
  mem : SameMemory s t
  monitor : t.monitor = s.monitor
  system : SameSystem s t

/-- The frame of an instruction that writes floating-point register `rd` and the pc alone; what `rd` holds satisfies
`holds`. -/
structure OnlyD (s t : State) (rd : Reg) (holds : Word → Prop) : Prop where
  result : holds (t.readD rd)
  d : ∀ i, i ≠ rd → t.readD i = s.readD i
  pc : t.pc = s.pc + 4
  x : SameX s t
  flags : t.flags = s.flags
  mem : SameMemory s t
  monitor : t.monitor = s.monitor
  system : SameSystem s t

/-- Byte `j` of an n-byte datum, by its place in memory (R53). -/
def byteOf (o : ByteOrder) (n : Nat) (v : Word) (j : Nat) : Byte :=
  match o with
  | .big => v.extractLsb' (8 * (n - 1 - j)) 8
  | .little => v.extractLsb' (8 * j) 8

/-- `v` is the n-byte value at `addr`, zero-extended (R52). -/
def ValueAt (m : Memory) (o : ByteOrder) (addr : Word) (n : Nat) (v : Word) : Prop :=
  v.toNat < 2 ^ (8 * n) ∧ ∀ j, j < n → m.read (addr + BitVec.ofNat 64 j).toNat = byteOf o n v j

/-- The memory of `t` is that of `s` with the low `n` bytes of `v` stored at `addr`, and no other byte changed (R53). -/
structure StoredAt (s t : State) (addr : Word) (n : Nat) (v : Word) : Prop where
  stored : ∀ j, j < n → t.mem.read (addr + BitVec.ofNat 64 j).toNat = byteOf s.params.byteOrder n v j
  kept : ∀ a : Word, (∀ j, j < n → a ≠ addr + BitVec.ofNat 64 j) → t.mem.read a.toNat = s.mem.read a.toNat

/-- The frame of a store: memory and the pc, and nothing else. -/
structure OnlyStore (s t : State) (addr : Word) (n : Nat) (v : Word) : Prop where
  mem : StoredAt s t addr n v
  pc : t.pc = s.pc + 4
  x : SameX s t
  flags : t.flags = s.flags
  d : SameD s t
  monitor : t.monitor = s.monitor
  system : SameSystem s t

/-- The frame of a compare: flags that satisfy `holds`, and the pc, and nothing else. -/
structure OnlyFlags (s t : State) (holds : Flags → Prop) : Prop where
  flags : holds t.flags
  pc : t.pc = s.pc + 4
  x : SameX s t
  d : SameD s t
  mem : SameMemory s t
  monitor : t.monitor = s.monitor
  system : SameSystem s t

/-- The frame of an STXR that ends with a status in `rm` (R212): all but memory, of which a statement says more. -/
structure OnlyStatus (s t : State) (rm : Reg) (status : Word) : Prop where
  x : WritesX s t rm status
  monitor : t.monitor = none
  pc : t.pc = s.pc + 4
  flags : t.flags = s.flags
  d : SameD s t
  system : SameSystem s t

/-- The instructions that write the flags (R25); CMP and CMPI are two of them by another name. -/
def setsFlags (i : Instr) : Bool :=
  match i.mnemonic with
  | .adds | .addis | .subs | .subis | .ands | .andis | .fcmps | .fcmpd => true
  | .b | .fmuls | .fdivs | .fadds | .fsubs | .fmuld | .fdivd | .faddd | .fsubd => false
  | .sturb | .ldurb | .bCond | .sturh | .ldurh | .and | .add | .addi | .andi | .bl | .sdiv => false
  | .udiv | .mul | .smulh | .umulh | .orr | .orri | .cbz | .cbnz | .sturw => false
  | .ldursw | .sturs | .ldurs | .stxr | .ldxr | .eor | .sub | .subi | .eori | .movz | .lsr => false
  | .lsl | .br | .movk | .stur | .ldur | .sturd | .ldurd => false

/-- The general register an instruction may write (R21, R172, R212): none for a compare, a store or a branch. -/
def destX (i : Instr) : Option Reg :=
  match i with
  | .add rd _ _ | .sub rd _ _ | .adds rd _ _ | .subs rd _ _ | .and rd _ _ | .ands rd _ _ | .orr rd _ _ | .eor rd _ _
  | .addi rd _ _ | .subi rd _ _ | .addis rd _ _ | .subis rd _ _ | .andi rd _ _ | .andis rd _ _ | .orri rd _ _
  | .eori rd _ _ | .lsl rd _ _ | .lsr rd _ _ | .movz rd _ _ | .movk rd _ _ | .mul rd _ _ | .smulh rd _ _
  | .umulh rd _ _ | .sdiv rd _ _ | .udiv rd _ _ => some rd
  | .ldur rt _ _ | .ldurb rt _ _ | .ldurh rt _ _ | .ldursw rt _ _ | .ldxr rt _ _ => some rt
  | .stxr _ rm _ => some rm
  | .bl _ => some Reg.lr
  | .b _ | .br _ | .cbz _ _ | .cbnz _ _ => none
  | .bEq _ | .bNe _ | .bHs _ | .bLo _ | .bMi _ | .bPl _ | .bVs _ | .bVc _ | .bHi _ | .bLs _ | .bGe _ | .bLt _ | .bGt _
  | .bLe _ => none
  | .stur _ _ _ | .sturb _ _ _ | .sturh _ _ _ | .sturw _ _ _ => none
  | .fadds _ _ _ | .fsubs _ _ _ | .fmuls _ _ _ | .fdivs _ _ _ | .faddd _ _ _ | .fsubd _ _ _ | .fmuld _ _ _
  | .fdivd _ _ _ | .fcmps _ _ | .fcmpd _ _ => none
  | .ldurs _ _ _ | .ldurd _ _ _ | .sturs _ _ _ | .sturd _ _ _ => none

/-- The floating-point register an instruction may write (R33). -/
def destD (i : Instr) : Option Reg :=
  match i with
  | .fadds rd _ _ | .fsubs rd _ _ | .fmuls rd _ _ | .fdivs rd _ _ | .faddd rd _ _ | .fsubd rd _ _ | .fmuld rd _ _
  | .fdivd rd _ _ => some rd
  | .ldurs rt _ _ | .ldurd rt _ _ => some rt
  | .fcmps _ _ | .fcmpd _ _ | .sturs _ _ _ | .sturd _ _ _ => none
  | .add _ _ _ | .sub _ _ _ | .adds _ _ _ | .subs _ _ _ | .and _ _ _ | .ands _ _ _ | .orr _ _ _ | .eor _ _ _
  | .addi _ _ _ | .subi _ _ _ | .addis _ _ _ | .subis _ _ _ | .andi _ _ _ | .andis _ _ _ | .orri _ _ _
  | .eori _ _ _ | .lsl _ _ _ | .lsr _ _ _ | .movz _ _ _ | .movk _ _ _ | .mul _ _ _ | .smulh _ _ _
  | .umulh _ _ _ | .sdiv _ _ _ | .udiv _ _ _ => none
  | .ldur _ _ _ | .ldurb _ _ _ | .ldurh _ _ _ | .ldursw _ _ _ | .ldxr _ _ _ | .stxr _ _ _ => none
  | .stur _ _ _ | .sturb _ _ _ | .sturh _ _ _ | .sturw _ _ _ => none
  | .b _ | .bl _ | .br _ | .cbz _ _ | .cbnz _ _ => none
  | .bEq _ | .bNe _ | .bHs _ | .bLo _ | .bMi _ | .bPl _ | .bVs _ | .bVc _ | .bHi _ | .bLs _ | .bGe _ | .bLt _ | .bGt _
  | .bLe _ => none

/-- The address range an instruction may store to: the address of its access and its size (R56). -/
def storeRange (i : Instr) (s : State) : Option (Word × Nat) :=
  match i with
  | .stur _ rn addr | .sturd _ rn addr => some (s.dAddr rn addr, 8)
  | .sturw _ rn addr | .sturs _ rn addr => some (s.dAddr rn addr, 4)
  | .sturh _ rn addr => some (s.dAddr rn addr, 2)
  | .sturb _ rn addr => some (s.dAddr rn addr, 1)
  | .stxr _ _ rn => some (s.readX rn, 8)
  | .ldur _ _ _ | .ldurb _ _ _ | .ldurh _ _ _ | .ldursw _ _ _ | .ldxr _ _ _ | .ldurs _ _ _ | .ldurd _ _ _ => none
  | .add _ _ _ | .sub _ _ _ | .adds _ _ _ | .subs _ _ _ | .and _ _ _ | .ands _ _ _ | .orr _ _ _ | .eor _ _ _
  | .addi _ _ _ | .subi _ _ _ | .addis _ _ _ | .subis _ _ _ | .andi _ _ _ | .andis _ _ _ | .orri _ _ _
  | .eori _ _ _ | .lsl _ _ _ | .lsr _ _ _ | .movz _ _ _ | .movk _ _ _ | .mul _ _ _ | .smulh _ _ _
  | .umulh _ _ _ | .sdiv _ _ _ | .udiv _ _ _ => none
  | .fadds _ _ _ | .fsubs _ _ _ | .fmuls _ _ _ | .fdivs _ _ _ | .faddd _ _ _ | .fsubd _ _ _ | .fmuld _ _ _
  | .fdivd _ _ _ | .fcmps _ _ | .fcmpd _ _ => none
  | .b _ | .bl _ | .br _ | .cbz _ _ | .cbnz _ _ => none
  | .bEq _ | .bNe _ | .bHs _ | .bLo _ | .bMi _ | .bPl _ | .bVs _ | .bVc _ | .bHi _ | .bLs _ | .bGe _ | .bLt _ | .bGt _
  | .bLe _ => none

/-! ## What an access needs -/

/-- An access of `n` bytes at `addr` that raises no Data Abort: aligned, or split where that is allowed, with every
byte in MEM_MAP (R54, R59). -/
def AccessAllowed (p : Params) (exclusive : Bool) (addr : Word) (n : Nat) : Prop :=
  (addr.toNat % n = 0 ∨ (p.misaligned = .split ∧ exclusive = false)) ∧
    ∀ j, j < n → mapped p (addr + BitVec.ofNat 64 j) = true

/-- `t` is `s` with exception `e` taken (R310): everything a program can read is as before, pc included. -/
structure Raised (s t : State) (cls : ExcClass) (info : Option Word) : Prop where
  record : t.faultRecord = some ⟨cls, s.pc, info⟩
  ec : t.esr.extractLsb' 26 6 = cls.number
  il : t.esr.extractLsb' 25 1 = 1
  monitor : t.monitor = none
  pc : t.pc = s.pc
  x : SameX s t
  flags : t.flags = s.flags
  d : SameD s t
  mem : SameMemory s t
  params : t.params = s.params

/-! ## Floating-point results -/

/-- A single-precision NaN (R241). -/
def IsNan32 (w : Word32) : Prop := w.extractLsb' 23 8 = 0xFF ∧ w.extractLsb' 0 23 ≠ 0

/-- A double-precision NaN (R241). -/
def IsNan64 (w : Word) : Prop := w.extractLsb' 52 11 = 0x7FF ∧ w.extractLsb' 0 52 ≠ 0

/-- `w` is a result FP_NUMERICS allows for a single-precision operation (R251). -/
def FpResult32 (p : Params) (op : FpOp) (a b w : Word32) : Prop :=
  match p.fpNumerics with
  | .other k => w = Config.fpOther32 k op a b
  | .ieee policy =>
    match FpFormat.single.arith op a.toNat b.toNat with
    | some bits => w.toNat = bits
    | none => IsNan32 w ∧ (policy = .armDefault → w = 0x7FC00000)

/-- `w` is a result FP_NUMERICS allows for a double-precision operation (R251). -/
def FpResult64 (p : Params) (op : FpOp) (a b w : Word) : Prop :=
  match p.fpNumerics with
  | .other k => w = Config.fpOther64 k op a b
  | .ieee policy =>
    match FpFormat.double.arith op a.toNat b.toNat with
    | some bits => w.toNat = bits
    | none => IsNan64 w ∧ (policy = .armDefault → w = 0x7FF8000000000000)

/-- A finite number of quanta as a rational number: quanta over the quanta in 1.0 (R240). -/
def FpFormat.rat (f : FpFormat) (quanta : Nat) : ℚ := (quanta : ℚ) / 2 ^ f.unitLog

/-- The rational number of a magnitude pattern (exponent and fraction fields), by the formula of R240; at exponent 0 by
R241's for a denormal, which gives 0 at fraction 0. -/
def FpFormat.magnitude (f : FpFormat) (mag : Nat) : ℚ :=
  let exp := mag / 2 ^ f.fracBits
  let frac : ℚ := ((mag % 2 ^ f.fracBits : Nat) : ℚ) / 2 ^ f.fracBits
  if exp = 0 then frac * (2 : ℚ) ^ ((1 : Int) - f.bias) else (1 + frac) * (2 : ℚ) ^ ((exp : Int) - f.bias)

/-- The magnitude pattern of an infinity (R241). -/
def FpFormat.infMag (f : FpFormat) : Nat := f.maxExp * 2 ^ f.fracBits

/-- The sign field of a pattern (R240). -/
def FpFormat.signOf (f : FpFormat) (bits : Nat) : Bool := bits / 2 ^ (f.expBits + f.fracBits) % 2 == 1

/-- The exponent and fraction fields of a pattern, as one number (R240). -/
def FpFormat.magOf (f : FpFormat) (bits : Nat) : Nat := bits % 2 ^ (f.expBits + f.fracBits)

/-- The rational number a pattern denotes; none for an infinity or a NaN (R240, R241). -/
def FpFormat.finite (f : FpFormat) (bits : Nat) : Option ℚ :=
  if f.magOf bits < f.infMag then
    some (if f.signOf bits then -f.magnitude (f.magOf bits) else f.magnitude (f.magOf bits))
  else none

/-- The extended rational number a pattern denotes; none for a NaN (R240, R241). -/
def FpFormat.extended (f : FpFormat) (bits : Nat) : Option (WithBot (WithTop ℚ)) :=
  if f.magOf bits < f.infMag then
    some (((if f.signOf bits then -f.magnitude (f.magOf bits) else f.magnitude (f.magOf bits) : ℚ) : WithTop ℚ) :
      WithBot (WithTop ℚ))
  else if f.magOf bits = f.infMag then some (if f.signOf bits then ⊥ else ((⊤ : WithTop ℚ) : WithBot (WithTop ℚ)))
  else none

/-- The largest finite number and half a unit in its last place: from here on rounding gives an infinity (R251). -/
def FpFormat.overflowAt (f : FpFormat) : ℚ :=
  (2 - 1 / 2 ^ (f.fracBits + 1)) * (2 : ℚ) ^ ((f.maxExp : Int) - 1 - f.bias)

/-- `mag` is the magnitude pattern nearest to `x`, of two equally near the one with even fraction; an infinity from
`overflowAt` on (R251). -/
def FpFormat.NearestEven (f : FpFormat) (x : ℚ) (mag : Nat) : Prop :=
  (f.overflowAt ≤ x ∧ mag = f.infMag) ∨
    (x < f.overflowAt ∧ mag < f.infMag ∧ ∀ p, p < f.infMag → p ≠ mag →
      |f.magnitude mag - x| < |f.magnitude p - x| ∨ (|f.magnitude mag - x| = |f.magnitude p - x| ∧ mag % 2 = 0))

/-- The exact result of an operation on rational numbers. -/
def fpExact (op : FpOp) (x y : ℚ) : ℚ :=
  match op with
  | .add => x + y
  | .sub => x - y
  | .mul => x * y
  | .div => x / y

/-- The sign of a result: of a product or a quotient the exclusive or of the operand signs; of a sum or a difference
the sign of the exact result, and of an exact zero minus only where both addends are minus zeros (R251). -/
def fpResultSign (op : FpOp) (a b : Bool) (exact : ℚ) : Bool :=
  match op with
  | .add => if exact = 0 then a && b else decide (exact < 0)
  | .sub => if exact = 0 then a && !b else decide (exact < 0)
  | .mul | .div => a != b

/-! ## The run of a program -/

/-- What every state of a run keeps: data memory in its form; an armed monitor at a multiple of 8 (R211); and after an
exception, ESR and the monitor as R310 leaves them, with pc still at the address the record names. -/
structure State.Inv (s : State) : Prop where
  mem : s.mem.wf
  monitor : ∀ a, s.monitor = some a → a.toNat % 8 = 0
  record : ∀ r, s.faultRecord = some r →
    s.esr.extractLsb' 26 6 = r.cls.number ∧ s.esr.extractLsb' 25 1 = 1 ∧ s.monitor = none ∧ r.atPc = s.pc

/-- A launch whose initial data is in memory's form as well (R341). -/
def Launch.legal (l : Launch) : Prop := l.wellFormed = true ∧ Memory.wf l.data

/-- How a run of at most so many steps ends (R345): the normal end, a fault, or no end yet, which says nothing of the
program. -/
inductive RunEnd where
  | done (s : State)
  | fault (r : FaultRecord) (s : State)
  | outOfFuel (s : State)
  /-- a refusal: no step of this model answers one -/
  | refused (r : Refusal)
deriving Repr

/-- Instructions executed one after another, each on the state the one before it leaves (R9). -/
def execSeq : List Instr → State → Result
  | [], s => .next s
  | i :: rest, s =>
    match exec i s with
    | .next t => execSeq rest t
    | .fault r => .fault r
    | .refused r => .refused r

/-- The fuelled runner of R345. -/
def runFor : Nat → State → RunEnd
  | 0, s => .outOfFuel s
  | k + 1, s =>
    match step s with
    | .next t => runFor k t
    | .refused r => .refused r
    | .fault _ =>
      match s.faultRecord with
      | some r => .fault r s
      | none => .done s

end Sys2Proof.Machine
end

