-- ==== Sys2Proof/Certificates/Slice0/Obligations.lean ====
section
/-! DEFINITION. The statements for the provers. OBLIGATIONS.json says which rule each formalises. -/

open Sys2Proof Sys2Proof.Machine

/-! ## Encoding -/

/-- R90 to R94: the operand values, as the concatenations the rules write. -/
def Obligations.OperandImmediates : Prop :=
  ∀ (imm : BitVec 12) (br : BitVec 26) (cbr : BitVec 19) (addr : BitVec 9) (mov : BitVec 16) (hw : BitVec 2),
    aluImm imm = (0 : BitVec 52) ++ imm ∧
    branchAddr br = (if br.getLsbD 25 then BitVec.allOnes 36 else 0) ++ br ++ (0 : BitVec 2) ∧
    condBranchAddr cbr = (if cbr.getLsbD 18 then BitVec.allOnes 43 else 0) ++ cbr ++ (0 : BitVec 2) ∧
    dtAddr addr = (if addr.getLsbD 8 then BitVec.allOnes 55 else 0) ++ addr ∧
    movImm mov hw = ((0 : BitVec 48) ++ mov) <<< (16 * hw.toNat) ∧
    (branchAddr br).toInt = 4 * br.toInt ∧ (condBranchAddr cbr).toInt = 4 * cbr.toInt ∧
    (dtAddr addr).toInt = addr.toInt ∧ (aluImm imm).toNat = imm.toNat

/-- No word is the instruction of two rows of the table. -/
def Obligations.NoWordHasTwoRows : Prop :=
  ∀ w : Word32, (opcodeTable.filter fun r => w &&& r.mask == r.bits).length ≤ 1

/-- Decoding the word of an instruction gives the instruction back, from the word and from bytes in either order, under
every launch that implements it; the encoder leaves unused fields zero. -/
def Obligations.DecodeOfEncode : Prop :=
  ∀ (i : Instr) (p : Params) (o : ByteOrder) (rest : List Byte),
    decode (encode i) = .ok i ∧
    encode i &&& unusedMask i.mnemonic = 0 ∧
    (i.wellFormed p = true → decodeFor p (encode i) = .ok i) ∧
    decodeBytes o (encodeBytes o i ++ rest) = .ok (i, rest)

/-- Encoding what a word decodes to gives the word back, but for its unused fields. -/
def Obligations.EncodeOfDecode : Prop :=
  ∀ (w : Word32) (i : Instr), decode w = .ok i → encode i = w &&& ~~~(unusedMask i.mnemonic)

/-- A word written out from the spec's encodings for one instruction of every family decodes to that instruction. -/
def Obligations.WrittenWordsDecode : Prop :=
  decode 0b10001011000_10101_000000_10100_01001 = .ok (.add 9 20 21) ∧
  decode 0b1011000100_111111111111_00010_00001 = .ok (.addis 1 2 4095) ∧
  decode 0b1001001000_000011111111_00010_00001 = .ok (.andi 1 2 255) ∧
  decode 0b11010011010_00000_111111_00010_00001 = .ok (.lsr 1 2 63) ∧
  decode 0b110100101_01_0001001000110100_01001 = .ok (.movz 9 0x1234 1) ∧
  decode 0b100101_00000000000000000001000000 = .ok (.bl 0x40) ∧
  decode 0b01010100_1111111111111111100_01011 = .ok (.bLt 0x7FFFC) ∧
  decode 0b10110101_1111111111111111110_01001 = .ok (.cbnz 9 0x7FFFE) ∧
  decode 0b10111000100_000000100_00_00010_00001 = .ok (.ldursw 1 2 4) ∧
  decode 0b11001000000_01001_000000_10100_10111 = .ok (.stxr 23 9 20) ∧
  decode 0b10011010110_00011_000010_00010_00001 = .ok (.sdiv 1 2 3) ∧
  decode 0b00011110011_00011_001110_00010_00001 = .ok (.fsubd 1 2 3) ∧
  decode 0b10111100010_000000100_00_00010_00001 = .ok (.ldurs 1 2 4)

/-- R99, R301: a word no row matches decodes to nothing and its step takes the exception Unknown; so does a reserved
condition of B.cond and a shamt no row lists. The rows take 143 opcodes of eleven bits, and no word is a no-op by
definition: an ADD to XZR is one. -/
def Obligations.UnallocatedWords : Prop :=
  (∀ w : Word32, (∃ e, decode w = .error e) ↔ ∀ r ∈ opcodeTable, w &&& r.mask ≠ r.bits) ∧
  (∀ (cbr : BitVec 19) (c : BitVec 5), 14 ≤ c.toNat → ∃ e, decode (encodeCB 0b01010100 cbr c) = .error e) ∧
  (∀ (sh : BitVec 6) (rm rn rd : Reg),
    (sh ∉ [0b000010, 0b000110, 0b001000, 0b001010, 0b001110] →
      (∃ e, decode (encodeR 0x0F1 rm sh rn rd) = .error e) ∧ ∃ e, decode (encodeR 0x0F3 rm sh rn rd) = .error e) ∧
    (sh ∉ [0b000010, 0b000011] → ∃ e, decode (encodeR 0x4D6 rm sh rn rd) = .error e) ∧
    (sh ≠ 0b011111 → ∃ e, decode (encodeR 0x4D8 rm sh rn rd) = .error e)) ∧
  (∀ (s : State) (w : Word32), s.faultRecord = none → fetch s.params s.pc = .word w →
    ((∃ e, decode w = .error e) ∨
      (s.params.strictUnused = true ∧ ∃ i, decode w = .ok i ∧ w &&& unusedMask i.mnemonic ≠ 0)) →
    ∃ t, step s = .next t ∧ Raised s t .unknown none) ∧
  ((List.range 2048).filter fun op => opcodeTable.any fun r =>
      (BitVec.ofNat 32 (op * 2 ^ 21) &&& (r.mask &&& 0xFFE00000)) == (r.bits &&& 0xFFE00000)).length = 143 ∧
  decode 0x8B1F03FF = .ok (.add 31 31 31) ∧
  (∀ s : State, ∃ t, exec (.add 31 31 31) s = .next t ∧ OnlyPc s t (s.pc + 4)) ∧
  (∀ s : State, ∃ t, exec (.orr 0 0 0) s = .next t ∧ OnlyPc s t (s.pc + 4))

/-! ## Registers -/

/-- R22's register 31 reads 0, a write to it changes no state, and an instruction whose destination it is changes no
general register and yet has every other effect: the flags of ADDS, the load's abort, the monitor. That the abort's info
is the address of the access, also where only a later byte of it is unmapped, is the model's choice: log entry 22. -/
def Obligations.RegisterThirtyOne : Prop :=
  (∀ (s : State) (v : Word), s.readX 31 = 0 ∧ s.writeX 31 v = s) ∧
  (∀ (i : Instr) (s t : State), destX i = some 31 → exec i s = .next t → ∀ r, t.readX r = s.readX r) ∧
  (∀ (s : State) (rn rm : Reg), ∃ t, exec (.adds 31 rn rm) s = .next t ∧
    t.flags = (addWithCarry (s.readX rn) (s.readX rm) false).2) ∧
  (∀ (s : State) (rn : Reg) (addr : BitVec 9), AccessAllowed s.params true (s.dAddr rn addr) 8 →
    ∃ t, exec (.ldxr 31 rn addr) s = .next t ∧ t.monitor = some (s.dAddr rn addr)) ∧
  (∀ (s : State) (rn : Reg) (addr : BitVec 9), ¬ AccessAllowed s.params false (s.dAddr rn addr) 8 →
    ∃ t, exec (.ldur 31 rn addr) s = .next t ∧ Raised s t .dataAbort (some (s.dAddr rn addr)))

/-- The floating-point file: a double write sets all 64 bits, a single write the low 32, each of the one register, number
31 like any other; a single read is the low half. -/
def Obligations.FloatingPointFile : Prop :=
  ∀ (s : State) (i j : Reg) (v : Word) (u : Word32),
    (s.writeD i v).readD j = (if j = i then v else s.readD j) ∧
    (s.writeS i u).readS i = u ∧
    (j ≠ i → (s.writeS i u).readD j = s.readD j) ∧
    (s.readS i).toNat = (s.readD i).toNat % 2 ^ 32

/-! ## Add and subtract -/

/-- R27: AddWithCarry from the exact unsigned and signed sums, and subtraction as `AddWithCarry(a, ~b, 1)`. -/
def Obligations.AddWithCarryAndSubtraction : Prop :=
  ∀ (a b : Word) (cin : Bool),
    ((addWithCarry a b cin).1.toNat = (a.toNat + b.toNat + cin.toNat) % 2 ^ 64 ∧
      (addWithCarry a b cin).2.n = (addWithCarry a b cin).1.getLsbD 63 ∧
      ((addWithCarry a b cin).2.z = true ↔ (addWithCarry a b cin).1 = 0) ∧
      ((addWithCarry a b cin).2.c = true ↔ 2 ^ 64 ≤ a.toNat + b.toNat + cin.toNat) ∧
      ((addWithCarry a b cin).2.v = true ↔ (addWithCarry a b cin).1.toInt ≠ a.toInt + b.toInt + cin.toNat)) ∧
    addFlags a b = addWithCarry a b false ∧ subFlags a b = addWithCarry a (~~~b) true ∧
    (addFlags a b).1 = a + b ∧ (subFlags a b).1 = a - b ∧
    ((subFlags a b).2.c = true ↔ b.toNat ≤ a.toNat) ∧
    ((subFlags a b).2.v = true ↔ ¬ (-2 ^ 63 ≤ a.toInt - b.toInt ∧ a.toInt - b.toInt ≤ 2 ^ 63 - 1))

/-- R28: V is the sign table. -/
def Obligations.OverflowIsTheSignTable : Prop :=
  ∀ a b : Word,
    ((addFlags a b).2.v = true ↔
      (a.msb = false ∧ b.msb = false ∧ (a + b).msb = true) ∨ (a.msb = true ∧ b.msb = true ∧ (a + b).msb = false)) ∧
    ((subFlags a b).2.v = true ↔
      (a.msb = false ∧ b.msb = true ∧ (a - b).msb = true) ∨ (a.msb = true ∧ b.msb = false ∧ (a - b).msb = false))

/-- R121, R122, R125, R126: the four that leave the flags alone. -/
def Obligations.AddAndSubtract : Prop :=
  ∀ (s : State) (rd rn rm : Reg) (imm : BitVec 12) (sh : BitVec 6),
    (decode (encodeR 0b10001011000 rm sh rn rd) = .ok (.add rd rn rm) ∧
      ∃ t, exec (.add rd rn rm) s = .next t ∧ OnlyX s t rd (s.readX rn + s.readX rm) ∧ t.flags = s.flags) ∧
    (decode (encodeI 0b1001000100 imm rn rd) = .ok (.addi rd rn imm) ∧
      ∃ t, exec (.addi rd rn imm) s = .next t ∧ OnlyX s t rd (s.readX rn + imm.setWidth 64) ∧ t.flags = s.flags) ∧
    (decode (encodeR 0b11001011000 rm sh rn rd) = .ok (.sub rd rn rm) ∧
      ∃ t, exec (.sub rd rn rm) s = .next t ∧ OnlyX s t rd (s.readX rn - s.readX rm) ∧ t.flags = s.flags) ∧
    (decode (encodeI 0b1101000100 imm rn rd) = .ok (.subi rd rn imm) ∧
      ∃ t, exec (.subi rd rn imm) s = .next t ∧ OnlyX s t rd (s.readX rn - imm.setWidth 64) ∧ t.flags = s.flags)

/-- R123, R124, R127, R128: the four that set them. -/
def Obligations.AddAndSubtractSetFlags : Prop :=
  ∀ (s : State) (rd rn rm : Reg) (imm : BitVec 12) (sh : BitVec 6),
    (decode (encodeR 0b10101011000 rm sh rn rd) = .ok (.adds rd rn rm) ∧
      ∃ t, exec (.adds rd rn rm) s = .next t ∧
        OnlyX s t rd (addWithCarry (s.readX rn) (s.readX rm) false).1 ∧
        t.flags = (addWithCarry (s.readX rn) (s.readX rm) false).2) ∧
    (decode (encodeI 0b1011000100 imm rn rd) = .ok (.addis rd rn imm) ∧
      ∃ t, exec (.addis rd rn imm) s = .next t ∧
        OnlyX s t rd (addWithCarry (s.readX rn) (imm.setWidth 64) false).1 ∧
        t.flags = (addWithCarry (s.readX rn) (imm.setWidth 64) false).2) ∧
    (decode (encodeR 0b11101011000 rm sh rn rd) = .ok (.subs rd rn rm) ∧
      ∃ t, exec (.subs rd rn rm) s = .next t ∧
        OnlyX s t rd (addWithCarry (s.readX rn) (~~~(s.readX rm)) true).1 ∧
        t.flags = (addWithCarry (s.readX rn) (~~~(s.readX rm)) true).2 ∧
        (t.flags.c = true ↔ (s.readX rm).toNat ≤ (s.readX rn).toNat) ∧
        (t.flags.z = true ↔ s.readX rn = s.readX rm)) ∧
    (decode (encodeI 0b1111000100 imm rn rd) = .ok (.subis rd rn imm) ∧
      ∃ t, exec (.subis rd rn imm) s = .next t ∧
        OnlyX s t rd (addWithCarry (s.readX rn) (~~~(imm.setWidth 64 : Word)) true).1 ∧
        t.flags = (addWithCarry (s.readX rn) (~~~(imm.setWidth 64 : Word)) true).2)

/-- R129 and the tests of R176: what the fourteen conditions read, and how they order two values after their
subtraction, overflow or not. -/
def Obligations.ConditionsAfterSubtraction : Prop :=
  (∀ f : Flags,
    condHolds .eq f = f.z ∧ condHolds .ne f = !f.z ∧ condHolds .hs f = f.c ∧ condHolds .lo f = !f.c ∧
    condHolds .mi f = f.n ∧ condHolds .pl f = !f.n ∧ condHolds .vs f = f.v ∧ condHolds .vc f = !f.v ∧
    condHolds .hi f = (!f.z && f.c) ∧ condHolds .ls f = !(!f.z && f.c) ∧
    condHolds .ge f = (f.n == f.v) ∧ condHolds .lt f = (f.n != f.v) ∧
    condHolds .gt f = (!f.z && (f.n == f.v)) ∧ condHolds .le f = !(!f.z && (f.n == f.v))) ∧
  (∀ (s : State) (rd rn rm : Reg), ∃ t, exec (.subs rd rn rm) s = .next t ∧
    (condHolds .eq t.flags = true ↔ s.readX rn = s.readX rm) ∧ (condHolds .ne t.flags = true ↔ s.readX rn ≠ s.readX rm) ∧
    (condHolds .hs t.flags = true ↔ (s.readX rm).toNat ≤ (s.readX rn).toNat) ∧
    (condHolds .lo t.flags = true ↔ (s.readX rn).toNat < (s.readX rm).toNat) ∧
    (condHolds .hi t.flags = true ↔ (s.readX rm).toNat < (s.readX rn).toNat) ∧
    (condHolds .ls t.flags = true ↔ (s.readX rn).toNat ≤ (s.readX rm).toNat) ∧
    (condHolds .ge t.flags = true ↔ (s.readX rm).toInt ≤ (s.readX rn).toInt) ∧
    (condHolds .lt t.flags = true ↔ (s.readX rn).toInt < (s.readX rm).toInt) ∧
    (condHolds .gt t.flags = true ↔ (s.readX rm).toInt < (s.readX rn).toInt) ∧
    (condHolds .le t.flags = true ↔ (s.readX rn).toInt ≤ (s.readX rm).toInt) ∧
    condHolds .mi t.flags = (s.readX rn - s.readX rm).msb ∧ condHolds .pl t.flags = !(s.readX rn - s.readX rm).msb ∧
    (condHolds .vs t.flags = true ↔ (s.readX rn - s.readX rm).toInt ≠ (s.readX rn).toInt - (s.readX rm).toInt) ∧
    (condHolds .vc t.flags = true ↔ (s.readX rn - s.readX rm).toInt = (s.readX rn).toInt - (s.readX rm).toInt)) ∧
  (∀ (s : State) (rd rn : Reg) (imm : BitVec 12), ∃ t, exec (.subis rd rn imm) s = .next t ∧
    (condHolds .eq t.flags = true ↔ s.readX rn = imm.setWidth 64) ∧
    (condHolds .hs t.flags = true ↔ imm.toNat ≤ (s.readX rn).toNat) ∧
    (condHolds .hi t.flags = true ↔ imm.toNat < (s.readX rn).toNat) ∧
    (condHolds .ge t.flags = true ↔ (imm.toNat : Int) ≤ (s.readX rn).toInt) ∧
    (condHolds .gt t.flags = true ↔ (imm.toNat : Int) < (s.readX rn).toInt))

/-! ## Logical, shift and move wide -/

/-- R141, R142, R145 to R148: the six logical instructions that leave the flags alone; a zero-extended immediate clears
the high 52 bits of ANDI's result and passes those of ORRI's and EORI's through. -/
def Obligations.Logical : Prop :=
  ∀ (s : State) (rd rn rm : Reg) (imm : BitVec 12) (sh : BitVec 6),
    (decode (encodeR 0b10001010000 rm sh rn rd) = .ok (.and rd rn rm) ∧
      ∃ t, exec (.and rd rn rm) s = .next t ∧ OnlyX s t rd (s.readX rn &&& s.readX rm) ∧ t.flags = s.flags) ∧
    (decode (encodeI 0b1001001000 imm rn rd) = .ok (.andi rd rn imm) ∧
      ∃ t, exec (.andi rd rn imm) s = .next t ∧ OnlyX s t rd (s.readX rn &&& imm.setWidth 64) ∧ t.flags = s.flags ∧
        (s.readX rn &&& imm.setWidth 64).toNat < 4096) ∧
    (decode (encodeR 0b10101010000 rm sh rn rd) = .ok (.orr rd rn rm) ∧
      ∃ t, exec (.orr rd rn rm) s = .next t ∧ OnlyX s t rd (s.readX rn ||| s.readX rm) ∧ t.flags = s.flags) ∧
    (decode (encodeI 0b1011001000 imm rn rd) = .ok (.orri rd rn imm) ∧
      ∃ t, exec (.orri rd rn imm) s = .next t ∧ OnlyX s t rd (s.readX rn ||| imm.setWidth 64) ∧ t.flags = s.flags ∧
        (s.readX rn ||| imm.setWidth 64).extractLsb' 12 52 = (s.readX rn).extractLsb' 12 52) ∧
    (decode (encodeR 0b11001010000 rm sh rn rd) = .ok (.eor rd rn rm) ∧
      ∃ t, exec (.eor rd rn rm) s = .next t ∧ OnlyX s t rd (s.readX rn ^^^ s.readX rm) ∧ t.flags = s.flags) ∧
    (decode (encodeI 0b1101001000 imm rn rd) = .ok (.eori rd rn imm) ∧
      ∃ t, exec (.eori rd rn imm) s = .next t ∧ OnlyX s t rd (s.readX rn ^^^ imm.setWidth 64) ∧ t.flags = s.flags ∧
        (s.readX rn ^^^ imm.setWidth 64).extractLsb' 12 52 = (s.readX rn).extractLsb' 12 52)

/-- R143, R144: N and Z of the result, C and V as LOGICAL_FLAGS_CV fixes them; where it draws them, nothing is said of
C and V. N is 0 after ANDIS. -/
def Obligations.LogicalSetFlags : Prop :=
  ∀ (s : State) (rd rn rm : Reg) (imm : BitVec 12) (sh : BitVec 6),
    (decode (encodeR 0b11101010000 rm sh rn rd) = .ok (.ands rd rn rm) ∧
      ∃ t, exec (.ands rd rn rm) s = .next t ∧ OnlyX s t rd (s.readX rn &&& s.readX rm) ∧
        t.flags.n = (s.readX rn &&& s.readX rm).getLsbD 63 ∧ (t.flags.z = true ↔ s.readX rn &&& s.readX rm = 0) ∧
        ∀ c v, s.params.logicalCV = .fixed (c, v) → t.flags.c = c ∧ t.flags.v = v) ∧
    (decode (encodeI 0b1111001000 imm rn rd) = .ok (.andis rd rn imm) ∧
      ∃ t, exec (.andis rd rn imm) s = .next t ∧ OnlyX s t rd (s.readX rn &&& imm.setWidth 64) ∧
        t.flags.n = false ∧ (t.flags.z = true ↔ s.readX rn &&& imm.setWidth 64 = 0) ∧
        ∀ c v, s.params.logicalCV = .fixed (c, v) → t.flags.c = c ∧ t.flags.v = v) ∧
    Params.default.logicalCV = .fixed (false, false)

/-- R150, R151: the shifts, as multiplication modulo 2^64 and as division rounded down. -/
def Obligations.Shifts : Prop :=
  ∀ (s : State) (rd rn rm : Reg) (sh : BitVec 6),
    (decode (encodeR 0b11010011011 rm sh rn rd) = .ok (.lsl rd rn sh) ∧
      ∃ t v, exec (.lsl rd rn sh) s = .next t ∧ OnlyX s t rd v ∧ t.flags = s.flags ∧
        v = s.readX rn <<< sh.toNat ∧ v.toNat = (s.readX rn).toNat * 2 ^ sh.toNat % 2 ^ 64) ∧
    (decode (encodeR 0b11010011010 rm sh rn rd) = .ok (.lsr rd rn sh) ∧
      ∃ t v, exec (.lsr rd rn sh) s = .next t ∧ OnlyX s t rd v ∧ t.flags = s.flags ∧
        v = s.readX rn >>> sh.toNat ∧ v.toNat = (s.readX rn).toNat / 2 ^ sh.toNat)

/-- R161, R162: MOVZ and MOVK bit by bit: the quarter at 16 * hw is the immediate; the other 48 bits are zero, or the old
value's. -/
def Obligations.MoveWide : Prop :=
  ∀ (s : State) (rd : Reg) (mov : BitVec 16) (hw : BitVec 2),
    (decode (encodeIM 0b110100101 hw mov rd) = .ok (.movz rd mov hw) ∧
      ∃ t v, exec (.movz rd mov hw) s = .next t ∧ OnlyX s t rd v ∧ t.flags = s.flags ∧
        ∀ j, j < 64 → v.getLsbD j =
          (if 16 * hw.toNat ≤ j ∧ j < 16 * hw.toNat + 16 then mov.getLsbD (j - 16 * hw.toNat) else false)) ∧
    (decode (encodeIM 0b111100101 hw mov rd) = .ok (.movk rd mov hw) ∧
      ∃ t v, exec (.movk rd mov hw) s = .next t ∧ OnlyX s t rd v ∧ t.flags = s.flags ∧
        ∀ j, j < 64 → v.getLsbD j =
          (if 16 * hw.toNat ≤ j ∧ j < 16 * hw.toNat + 16 then mov.getLsbD (j - 16 * hw.toNat)
            else (s.readX rd).getLsbD j))

/-- One MOVZ of any quarter, then MOVKs, in any order, among them one for every other quarter that is not zero, leave
the constant in the register, whatever it held before. -/
def Obligations.AnyConstantByMoves : Prop :=
  ∀ (s : State) (rd : Reg) (k : Word) (q : BitVec 2) (qs : List (BitVec 2)), rd ≠ 31 →
    (∀ h : BitVec 2, h ≠ q → k.extractLsb' (16 * h.toNat) 16 ≠ 0 → h ∈ qs) →
    ∃ t, execSeq (.movz rd (k.extractLsb' (16 * q.toNat) 16) q ::
        qs.map fun h => .movk rd (k.extractLsb' (16 * h.toNat) 16) h) s = .next t ∧
      t.readX rd = k ∧ ∀ r, r ≠ rd → t.readX r = s.readX r

/-! ## Control transfer -/

/-- R170, R172, R173: the unconditional branches; offsets count from the branch itself. -/
def Obligations.UnconditionalBranches : Prop :=
  ∀ (s : State) (br : BitVec 26) (rn rm rd : Reg) (sh : BitVec 6),
    (decode (encodeB 0b000101 br) = .ok (.b br) ∧
      ∃ t, exec (.b br) s = .next t ∧ OnlyPc s t (s.pc + (br ++ (0 : BitVec 2)).signExtend 64)) ∧
    (decode (encodeB 0b100101 br) = .ok (.bl br) ∧
      ∃ t, exec (.bl br) s = .next t ∧ t.pc = s.pc + (br ++ (0 : BitVec 2)).signExtend 64 ∧
        WritesX s t 30 (s.pc + 4) ∧ t.flags = s.flags ∧ SameD s t ∧ SameMemory s t ∧ t.monitor = s.monitor ∧
        SameSystem s t) ∧
    (decode (encodeR 0b11010110000 rm sh rn rd) = .ok (.br rn) ∧
      ∃ t, exec (.br rn) s = .next t ∧ OnlyPc s t (s.readX rn))

/-- R175 with the tests of R176 written out: where each B.cond goes, and that the words of the other conditions are no
instruction. -/
def Obligations.ConditionalBranches : Prop :=
  (∀ (s : State) (cbr : BitVec 19),
    let target : Bool → Word := fun taken => if taken then s.pc + (cbr ++ (0 : BitVec 2)).signExtend 64 else s.pc + 4
    let word : BitVec 5 → Word32 := encodeCB 0b01010100 cbr
    (decode (word 0) = .ok (.bEq cbr) ∧ ∃ t, exec (.bEq cbr) s = .next t ∧ OnlyPc s t (target s.flags.z)) ∧
    (decode (word 1) = .ok (.bNe cbr) ∧ ∃ t, exec (.bNe cbr) s = .next t ∧ OnlyPc s t (target !s.flags.z)) ∧
    (decode (word 2) = .ok (.bHs cbr) ∧ ∃ t, exec (.bHs cbr) s = .next t ∧ OnlyPc s t (target s.flags.c)) ∧
    (decode (word 3) = .ok (.bLo cbr) ∧ ∃ t, exec (.bLo cbr) s = .next t ∧ OnlyPc s t (target !s.flags.c)) ∧
    (decode (word 4) = .ok (.bMi cbr) ∧ ∃ t, exec (.bMi cbr) s = .next t ∧ OnlyPc s t (target s.flags.n)) ∧
    (decode (word 5) = .ok (.bPl cbr) ∧ ∃ t, exec (.bPl cbr) s = .next t ∧ OnlyPc s t (target !s.flags.n)) ∧
    (decode (word 6) = .ok (.bVs cbr) ∧ ∃ t, exec (.bVs cbr) s = .next t ∧ OnlyPc s t (target s.flags.v)) ∧
    (decode (word 7) = .ok (.bVc cbr) ∧ ∃ t, exec (.bVc cbr) s = .next t ∧ OnlyPc s t (target !s.flags.v)) ∧
    (decode (word 8) = .ok (.bHi cbr) ∧
      ∃ t, exec (.bHi cbr) s = .next t ∧ OnlyPc s t (target (!s.flags.z && s.flags.c))) ∧
    (decode (word 9) = .ok (.bLs cbr) ∧
      ∃ t, exec (.bLs cbr) s = .next t ∧ OnlyPc s t (target !(!s.flags.z && s.flags.c))) ∧
    (decode (word 10) = .ok (.bGe cbr) ∧
      ∃ t, exec (.bGe cbr) s = .next t ∧ OnlyPc s t (target (s.flags.n == s.flags.v))) ∧
    (decode (word 11) = .ok (.bLt cbr) ∧
      ∃ t, exec (.bLt cbr) s = .next t ∧ OnlyPc s t (target (s.flags.n != s.flags.v))) ∧
    (decode (word 12) = .ok (.bGt cbr) ∧
      ∃ t, exec (.bGt cbr) s = .next t ∧ OnlyPc s t (target (!s.flags.z && (s.flags.n == s.flags.v)))) ∧
    (decode (word 13) = .ok (.bLe cbr) ∧
      ∃ t, exec (.bLe cbr) s = .next t ∧ OnlyPc s t (target !(!s.flags.z && (s.flags.n == s.flags.v))))) ∧
  (∀ (s : State) (cbr : BitVec 19) (c : BitVec 5), 14 ≤ c.toNat → s.faultRecord = none →
    fetch s.params s.pc = .word (encodeCB 0b01010100 cbr c) → ∃ t, step s = .next t ∧ Raised s t .unknown none)

/-- R177, R178: all 64 bits of the register are tested. -/
def Obligations.CompareAndBranch : Prop :=
  ∀ (s : State) (rt : Reg) (cbr : BitVec 19),
    (decode (encodeCB 0b10110100 cbr rt) = .ok (.cbz rt cbr) ∧
      ∃ t, exec (.cbz rt cbr) s = .next t ∧
        OnlyPc s t (if s.readX rt = 0 then s.pc + (cbr ++ (0 : BitVec 2)).signExtend 64 else s.pc + 4)) ∧
    (decode (encodeCB 0b10110101 cbr rt) = .ok (.cbnz rt cbr) ∧
      ∃ t, exec (.cbnz rt cbr) s = .next t ∧
        OnlyPc s t (if s.readX rt ≠ 0 then s.pc + (cbr ++ (0 : BitVec 2)).signExtend 64 else s.pc + 4))

/-- Every instruction but BR leaves an aligned pc aligned. -/
def Obligations.OnlyBrMisalignsThePc : Prop :=
  ∀ (i : Instr) (s t : State), (∀ rn, i ≠ .br rn) → s.pc.toNat % 4 = 0 → exec i s = .next t → t.pc.toNat % 4 = 0

/-! ## Memory -/

/-- An access that R52's checks let through hands on the value of its bytes in BYTE_ORDER; one they stop is a Data Abort
and hands on nothing. That the abort's info is the address of the access, also where only a later byte of it is unmapped,
is the model's choice: log entry 22. -/
def Obligations.MemoryRead : Prop :=
  ∀ (s : State) (addr : Word) (n : Nat) (use : Word → State), n ∈ [1, 2, 4, 8] →
    (AccessAllowed s.params false addr n →
      ∃ v, ValueAt s.mem s.params.byteOrder addr n v ∧ s.loadThen false addr n use = .next (use v).nextPc) ∧
    (¬ AccessAllowed s.params false addr n →
      ∃ t, s.loadThen false addr n use = .next t ∧ Raised s t .dataAbort (some addr))

/-- A store that R53's checks let through writes its bytes in BYTE_ORDER and no other, and the load straight after it
returns what was stored. That the info of a stopped store is the address of the access, also where only a later byte of it
is unmapped, is the model's choice: log entry 22. -/
def Obligations.MemoryWrite : Prop :=
  ∀ (s : State) (addr : Word) (n : Nat) (v : Word), n ∈ [1, 2, 4, 8] → s.mem.wf →
    (AccessAllowed s.params false addr n →
      ∃ t, s.storeThen addr n v = .next t ∧ OnlyStore s t addr n v ∧ t.mem.wf ∧
        (t.mem.load t.params.byteOrder addr n).toNat = v.toNat % 2 ^ (8 * n)) ∧
    (¬ AccessAllowed s.params false addr n →
      ∃ t, s.storeThen addr n v = .next t ∧ Raised s t .dataAbort (some addr))

/-- What narrower loads see of a stored double word, in both byte orders. -/
def Obligations.MixedWidths : Prop :=
  ∀ (m : Memory) (a v : Word), m.wf → a.toNat % 8 = 0 →
    let big := m.store .big a 8 v
    let little := m.store .little a 8 v
    big.load .big a 1 = (v.extractLsb' 56 8).setWidth 64 ∧ little.load .little a 1 = (v.extractLsb' 0 8).setWidth 64 ∧
    big.load .big (a + 7) 1 = (v.extractLsb' 0 8).setWidth 64 ∧
    little.load .little (a + 7) 1 = (v.extractLsb' 56 8).setWidth 64 ∧
    big.load .big a 2 = (v.extractLsb' 48 16).setWidth 64 ∧ little.load .little a 2 = (v.extractLsb' 0 16).setWidth 64 ∧
    big.load .big a 4 = (v.extractLsb' 32 32).setWidth 64 ∧ little.load .little a 4 = (v.extractLsb' 0 32).setWidth 64 ∧
    big.load .big (a + 4) 4 = (v.extractLsb' 0 32).setWidth 64 ∧
    little.load .little (a + 4) 4 = (v.extractLsb' 32 32).setWidth 64

/-- The integer loads of R191 to R194. That the info of an abort is the address of the access, also where only a later
byte of it is unmapped, is the model's choice: log entry 22. -/
def Obligations.IntegerLoads : Prop :=
  ∀ (s : State) (rt rn : Reg) (addr : BitVec 9),
    let a := s.readX rn + addr.signExtend 64
    (AccessAllowed s.params false a 8 → ∃ t v, exec (.ldur rt rn addr) s = .next t ∧
      ValueAt s.mem s.params.byteOrder a 8 v ∧ OnlyX s t rt v ∧ t.flags = s.flags) ∧
    (AccessAllowed s.params false a 1 → ∃ t v, exec (.ldurb rt rn addr) s = .next t ∧
      ValueAt s.mem s.params.byteOrder a 1 v ∧ OnlyX s t rt v ∧ t.flags = s.flags) ∧
    (AccessAllowed s.params false a 2 → ∃ t v, exec (.ldurh rt rn addr) s = .next t ∧
      ValueAt s.mem s.params.byteOrder a 2 v ∧ OnlyX s t rt v ∧ t.flags = s.flags) ∧
    (AccessAllowed s.params false a 4 → ∃ t v, exec (.ldursw rt rn addr) s = .next t ∧
      ValueAt s.mem s.params.byteOrder a 4 v ∧ OnlyX s t rt ((v.setWidth 32).signExtend 64) ∧ t.flags = s.flags) ∧
    (¬ AccessAllowed s.params false a 8 →
      ∃ t, exec (.ldur rt rn addr) s = .next t ∧ Raised s t .dataAbort (some a)) ∧
    (¬ AccessAllowed s.params false a 1 →
      ∃ t, exec (.ldurb rt rn addr) s = .next t ∧ Raised s t .dataAbort (some a)) ∧
    (¬ AccessAllowed s.params false a 2 →
      ∃ t, exec (.ldurh rt rn addr) s = .next t ∧ Raised s t .dataAbort (some a)) ∧
    (¬ AccessAllowed s.params false a 4 →
      ∃ t, exec (.ldursw rt rn addr) s = .next t ∧ Raised s t .dataAbort (some a)) ∧
    decode (encodeD 0b11111000010 addr rn rt) = .ok (.ldur rt rn addr) ∧
    decode (encodeD 0b00111000010 addr rn rt) = .ok (.ldurb rt rn addr) ∧
    decode (encodeD 0b01111000010 addr rn rt) = .ok (.ldurh rt rn addr) ∧
    decode (encodeD 0b10111000100 addr rn rt) = .ok (.ldursw rt rn addr)

/-- The integer stores of R195 to R198, over a memory in its form. That the info of an abort is the address of the
access, also where only a later byte of it is unmapped, is the model's choice: log entry 22. -/
def Obligations.IntegerStores : Prop :=
  ∀ (s : State) (rt rn : Reg) (addr : BitVec 9), s.mem.wf →
    let a := s.readX rn + addr.signExtend 64
    (AccessAllowed s.params false a 8 →
      ∃ t, exec (.stur rt rn addr) s = .next t ∧ OnlyStore s t a 8 (s.readX rt)) ∧
    (AccessAllowed s.params false a 1 →
      ∃ t, exec (.sturb rt rn addr) s = .next t ∧ OnlyStore s t a 1 (s.readX rt)) ∧
    (AccessAllowed s.params false a 2 →
      ∃ t, exec (.sturh rt rn addr) s = .next t ∧ OnlyStore s t a 2 (s.readX rt)) ∧
    (AccessAllowed s.params false a 4 →
      ∃ t, exec (.sturw rt rn addr) s = .next t ∧ OnlyStore s t a 4 (s.readX rt)) ∧
    (¬ AccessAllowed s.params false a 8 →
      ∃ t, exec (.stur rt rn addr) s = .next t ∧ Raised s t .dataAbort (some a)) ∧
    (¬ AccessAllowed s.params false a 1 →
      ∃ t, exec (.sturb rt rn addr) s = .next t ∧ Raised s t .dataAbort (some a)) ∧
    (¬ AccessAllowed s.params false a 2 →
      ∃ t, exec (.sturh rt rn addr) s = .next t ∧ Raised s t .dataAbort (some a)) ∧
    (¬ AccessAllowed s.params false a 4 →
      ∃ t, exec (.sturw rt rn addr) s = .next t ∧ Raised s t .dataAbort (some a)) ∧
    decode (encodeD 0b11111000000 addr rn rt) = .ok (.stur rt rn addr) ∧
    decode (encodeD 0b00111000000 addr rn rt) = .ok (.sturb rt rn addr) ∧
    decode (encodeD 0b01111000000 addr rn rt) = .ok (.sturh rt rn addr) ∧
    decode (encodeD 0b10111000000 addr rn rt) = .ok (.sturw rt rn addr)

/-- A store, then the load of the same size at the same address, by whatever registers the two name it: the load gives
the stored part of the register, extended as it extends. -/
def Obligations.LoadAfterStore : Prop :=
  ∀ (s : State) (rt rn rd rb : Reg) (addr off : BitVec 9), s.mem.wf → rd ≠ 31 →
    s.readX rb + off.signExtend 64 = s.readX rn + addr.signExtend 64 →
    let a := s.readX rn + addr.signExtend 64
    (AccessAllowed s.params false a 8 →
      ∃ t, execSeq [.stur rt rn addr, .ldur rd rb off] s = .next t ∧ t.readX rd = s.readX rt) ∧
    (AccessAllowed s.params false a 4 →
      ∃ t, execSeq [.sturw rt rn addr, .ldursw rd rb off] s = .next t ∧
        t.readX rd = ((s.readX rt).setWidth 32).signExtend 64) ∧
    (AccessAllowed s.params false a 2 →
      ∃ t, execSeq [.sturh rt rn addr, .ldurh rd rb off] s = .next t ∧
        t.readX rd = ((s.readX rt).setWidth 16).setWidth 64) ∧
    (AccessAllowed s.params false a 1 →
      ∃ t, execSeq [.sturb rt rn addr, .ldurb rd rb off] s = .next t ∧
        t.readX rd = ((s.readX rt).setWidth 8).setWidth 64)

/-! ## The exclusive pair -/

/-- LDXR of R211 loads and arms the monitor at its address; a misaligned or unmapped one is a Data Abort, under either
setting of MISALIGNED, and leaves the monitor clear. R211 gives the info of the misaligned one; that the unmapped one's is
the address of the access too, also where only a later byte of it is unmapped, is the model's choice: log entry 22. -/
def Obligations.LoadExclusive : Prop :=
  ∀ (s : State) (rt rn : Reg) (addr : BitVec 9),
    let a := s.readX rn + addr.signExtend 64
    (a.toNat % 8 = 0 → (∀ j, j < 8 → mapped s.params (a + BitVec.ofNat 64 j) = true) →
      ∃ t v, exec (.ldxr rt rn addr) s = .next t ∧ ValueAt s.mem s.params.byteOrder a 8 v ∧ WritesX s t rt v ∧
        t.monitor = some a ∧ t.pc = s.pc + 4 ∧ t.flags = s.flags ∧ SameD s t ∧ SameMemory s t ∧ SameSystem s t) ∧
    (a.toNat % 8 ≠ 0 → ∃ t, exec (.ldxr rt rn addr) s = .next t ∧ Raised s t .dataAbort (some a)) ∧
    (a.toNat % 8 = 0 → ¬ (∀ j, j < 8 → mapped s.params (a + BitVec.ofNat 64 j) = true) →
      ∃ t, exec (.ldxr rt rn addr) s = .next t ∧ Raised s t .dataAbort (some a)) ∧
    decode (encodeD 0b11001000010 addr rn rt) = .ok (.ldxr rt rn addr)

/-- STXR of R212 stores and gives status 0 where the monitor is armed at its address, and gives status 1 and stores
nothing elsewhere; MEM_MAP is checked on the first path alone. Under STXR_SPURIOUS_FAIL the first path may end as the
second. R212 gives the info of the misaligned abort; that the unmapped one's is the address of the access too, also where
only a later byte of it is unmapped, is the model's choice: log entry 22. -/
def Obligations.StoreExclusive : Prop :=
  ∀ (s : State) (rt rm rn : Reg) (sh : BitVec 6), s.mem.wf →
    let a := s.readX rn
    let unmapped := ¬ ∀ j, j < 8 → mapped s.params (a + BitVec.ofNat 64 j) = true
    let stores := fun t : State => StoredAt s t a 8 (s.readX rt) ∧ OnlyStatus s t rm 0
    let fails := fun t : State => SameMemory s t ∧ OnlyStatus s t rm 1
    (a.toNat % 8 ≠ 0 → ∃ t, exec (.stxr rt rm rn) s = .next t ∧ Raised s t .dataAbort (some a)) ∧
    (a.toNat % 8 = 0 → s.monitor ≠ some a → ∃ t, exec (.stxr rt rm rn) s = .next t ∧ fails t) ∧
    (a.toNat % 8 = 0 → s.monitor = some a → s.params.stxrSpurious = false → ¬ unmapped →
      ∃ t, exec (.stxr rt rm rn) s = .next t ∧ stores t) ∧
    (a.toNat % 8 = 0 → s.monitor = some a → s.params.stxrSpurious = false → unmapped →
      ∃ t, exec (.stxr rt rm rn) s = .next t ∧ Raised s t .dataAbort (some a)) ∧
    (a.toNat % 8 = 0 → s.monitor = some a → s.params.stxrSpurious = true →
      ∃ t, exec (.stxr rt rm rn) s = .next t ∧
        (fails t ∨ (¬ unmapped ∧ stores t) ∨ (unmapped ∧ Raised s t .dataAbort (some a)))) ∧
    decode (encodeR 0b11001000000 rm sh rn rt) = .ok (.stxr rt rm rn)

/-- R213: what changes the monitor: a successful LDXR arms it, every STXR, every exception, reset and launch clear it,
and nothing else changes it, stores to the same address included. -/
def Obligations.MonitorChanges : Prop :=
  (∀ (i : Instr) (s t : State), s.faultRecord = none → exec i s = .next t →
    (t.faultRecord ≠ none → t.monitor = none) ∧
    (t.faultRecord = none →
      (∀ rt rn addr, i = .ldxr rt rn addr → t.monitor = some (s.dAddr rn addr)) ∧
      (∀ rt rm rn, i = .stxr rt rm rn → t.monitor = none) ∧
      ((∀ rt rn addr, i ≠ .ldxr rt rn addr) → (∀ rt rm rn, i ≠ .stxr rt rm rn) → t.monitor = s.monitor))) ∧
  (∀ (s : State) (e : Exc), (s.takeException e).monitor = none) ∧
  State.reset.monitor = none ∧ ∀ l : Launch, (State.ofLaunch l).monitor = none

/-- An LDXR, then any instructions but LDXR and STXR that raise nothing, then an STXR to the LDXR's address: without
spurious failure the store happens and the status is 0. -/
def Obligations.PairedStoreSucceeds : Prop :=
  ∀ (s t : State) (rt rn rv rm rb : Reg) (addr : BitVec 9) (between : List Instr),
    s.mem.wf → s.faultRecord = none → s.params.stxrSpurious = false →
    (∀ i ∈ between, i.mnemonic ≠ .ldxr ∧ i.mnemonic ≠ .stxr) →
    execSeq (.ldxr rt rn addr :: between) s = .next t → t.faultRecord = none → t.readX rb = s.dAddr rn addr →
    ∃ u, exec (.stxr rv rm rb) t = .next u ∧ StoredAt t u (s.dAddr rn addr) 8 (t.readX rv) ∧ OnlyStatus t u rm 0

/-! ## Multiply and divide -/

/-- R221 to R223: the low and the high half of the exact product. -/
def Obligations.Multiply : Prop :=
  ∀ (s : State) (rd rn rm : Reg) (sh : BitVec 6),
    (decode (encodeR 0b10011011000 rm 0b011111 rn rd) = .ok (.mul rd rn rm) ∧
      ∃ t v, exec (.mul rd rn rm) s = .next t ∧ OnlyX s t rd v ∧ t.flags = s.flags ∧
        v.toNat = (s.readX rn).toNat * (s.readX rm).toNat % 2 ^ 64) ∧
    (decode (encodeR 0b10011011010 rm sh rn rd) = .ok (.smulh rd rn rm) ∧
      ∃ t v, exec (.smulh rd rn rm) s = .next t ∧ OnlyX s t rd v ∧ t.flags = s.flags ∧
        v.toInt = ((s.readX rn).toInt * (s.readX rm).toInt).fdiv (2 ^ 64)) ∧
    (decode (encodeR 0b10011011110 rm sh rn rd) = .ok (.umulh rd rn rm) ∧
      ∃ t v, exec (.umulh rd rn rm) s = .next t ∧ OnlyX s t rd v ∧ t.flags = s.flags ∧
        v.toNat = (s.readX rn).toNat * (s.readX rm).toNat / 2 ^ 64)

/-- R224, R225: the quotients, and the two corners, which take the value their parameter fixes, or any value, and never
trap. -/
def Obligations.Divide : Prop :=
  ∀ (s : State) (rd rn rm : Reg),
    (decode (encodeR 0b10011010110 rm 0b000010 rn rd) = .ok (.sdiv rd rn rm) ∧
      ∃ t v, exec (.sdiv rd rn rm) s = .next t ∧ OnlyX s t rd v ∧ t.flags = s.flags ∧
        (s.readX rm = 0 → ∀ q, s.params.divByZero = .fixed q → v = q) ∧
        ((s.readX rn).toInt = -2 ^ 63 → (s.readX rm).toInt = -1 → ∀ q, s.params.sdivOverflow = .fixed q → v = q) ∧
        (s.readX rm ≠ 0 → ¬ ((s.readX rn).toInt = -2 ^ 63 ∧ (s.readX rm).toInt = -1) →
          v.toInt = (s.readX rn).toInt.tdiv (s.readX rm).toInt)) ∧
    (decode (encodeR 0b10011010110 rm 0b000011 rn rd) = .ok (.udiv rd rn rm) ∧
      ∃ t v, exec (.udiv rd rn rm) s = .next t ∧ OnlyX s t rd v ∧ t.flags = s.flags ∧
        (s.readX rm = 0 → ∀ q, s.params.divByZero = .fixed q → v = q) ∧
        (s.readX rm ≠ 0 → v.toNat = (s.readX rn).toNat / (s.readX rm).toNat)) ∧
    Params.default.divByZero = .fixed 0 ∧ Params.default.sdivOverflow = .fixed 0x8000000000000000

/-- The 128-bit products and the remainders of the quotients. -/
def Obligations.ProductAndQuotientLaws : Prop :=
  ∀ a b : Word,
    (mulHighUnsigned a b).toNat * 2 ^ 64 + (a * b).toNat = a.toNat * b.toNat ∧
    (mulHighSigned a b ++ a * b).toInt = a.toInt * b.toInt ∧
    a * b = b * a ∧ mulHighSigned a b = mulHighSigned b a ∧ mulHighUnsigned a b = mulHighUnsigned b a ∧
    (b ≠ 0 → ∃ r, a.toNat = (quotUnsigned a b).toNat * b.toNat + r ∧ r < b.toNat) ∧
    (b ≠ 0 → ¬ (a.toInt = -2 ^ 63 ∧ b.toInt = -1) →
      (quotSigned a b).toInt.natAbs = a.toInt.natAbs / b.toInt.natAbs ∧
      ∃ r : Int, a.toInt = (quotSigned a b).toInt * b.toInt + r ∧ r.natAbs < b.toInt.natAbs ∧
        (r = 0 ∨ (0 < r ∧ 0 < a.toInt) ∨ (r < 0 ∧ a.toInt < 0)))

/-! ## Floating point -/

/-- R242 to R245: the single-precision operations. -/
def Obligations.SingleArithmetic : Prop :=
  ∀ (s : State) (rd rn rm : Reg),
    let gives := fun (op : FpOp) (t : State) =>
      OnlyD s t rd fun w => FpResult32 s.params op (s.readS rn) (s.readS rm) (w.setWidth 32)
    (s.params.fpEnabled = true → ∃ t, exec (.fadds rd rn rm) s = .next t ∧ gives .add t) ∧
    (s.params.fpEnabled = true → ∃ t, exec (.fsubs rd rn rm) s = .next t ∧ gives .sub t) ∧
    (s.params.fpEnabled = true → ∃ t, exec (.fmuls rd rn rm) s = .next t ∧ gives .mul t) ∧
    (s.params.fpEnabled = true → ∃ t, exec (.fdivs rd rn rm) s = .next t ∧ gives .div t) ∧
    decode (encodeR 0b00011110001 rm 0b001010 rn rd) = .ok (.fadds rd rn rm) ∧
    decode (encodeR 0b00011110001 rm 0b001110 rn rd) = .ok (.fsubs rd rn rm) ∧
    decode (encodeR 0b00011110001 rm 0b000010 rn rd) = .ok (.fmuls rd rn rm) ∧
    decode (encodeR 0b00011110001 rm 0b000110 rn rd) = .ok (.fdivs rd rn rm)

/-- R246 to R249: the double-precision operations. -/
def Obligations.DoubleArithmetic : Prop :=
  ∀ (s : State) (rd rn rm : Reg),
    let gives := fun (op : FpOp) (t : State) =>
      OnlyD s t rd fun w => FpResult64 s.params op (s.readD rn) (s.readD rm) w
    (s.params.fpEnabled = true → ∃ t, exec (.faddd rd rn rm) s = .next t ∧ gives .add t) ∧
    (s.params.fpEnabled = true → ∃ t, exec (.fsubd rd rn rm) s = .next t ∧ gives .sub t) ∧
    (s.params.fpEnabled = true → ∃ t, exec (.fmuld rd rn rm) s = .next t ∧ gives .mul t) ∧
    (s.params.fpEnabled = true → ∃ t, exec (.fdivd rd rn rm) s = .next t ∧ gives .div t) ∧
    decode (encodeR 0b00011110011 rm 0b001010 rn rd) = .ok (.faddd rd rn rm) ∧
    decode (encodeR 0b00011110011 rm 0b001110 rn rd) = .ok (.fsubd rd rn rm) ∧
    decode (encodeR 0b00011110011 rm 0b000010 rn rd) = .ok (.fmuld rd rn rm) ∧
    decode (encodeR 0b00011110011 rm 0b000110 rn rd) = .ok (.fdivd rd rn rm)

/-- The value of a pattern, field by field, for both formats: normal numbers, denormals and zeros, infinities, NaNs. -/
def Obligations.PatternsDenoteTheirValues : Prop :=
  (∀ w : Word32,
    let e := (w.extractLsb' 23 8).toNat
    let m := (w.extractLsb' 0 23).toNat
    (e = 255 ∧ m ≠ 0 → FpFormat.single.value w.toNat = .nan) ∧
    (e = 255 ∧ m = 0 → FpFormat.single.value w.toNat = .inf w.msb) ∧
    (1 ≤ e ∧ e ≤ 254 → ∃ q, FpFormat.single.value w.toNat = .fin w.msb q ∧
      FpFormat.single.rat q = (1 + (m : ℚ) / 2 ^ 23) * (2 : ℚ) ^ ((e : Int) - 127)) ∧
    (e = 0 → ∃ q, FpFormat.single.value w.toNat = .fin w.msb q ∧
      FpFormat.single.rat q = (m : ℚ) / 2 ^ 23 * (2 : ℚ) ^ (-126 : Int))) ∧
  (∀ w : Word,
    let e := (w.extractLsb' 52 11).toNat
    let m := (w.extractLsb' 0 52).toNat
    (e = 2047 ∧ m ≠ 0 → FpFormat.double.value w.toNat = .nan) ∧
    (e = 2047 ∧ m = 0 → FpFormat.double.value w.toNat = .inf w.msb) ∧
    (1 ≤ e ∧ e ≤ 2046 → ∃ q, FpFormat.double.value w.toNat = .fin w.msb q ∧
      FpFormat.double.rat q = (1 + (m : ℚ) / 2 ^ 52) * (2 : ℚ) ^ ((e : Int) - 1023)) ∧
    (e = 0 → ∃ q, FpFormat.double.value w.toNat = .fin w.msb q ∧
      FpFormat.double.rat q = (m : ℚ) / 2 ^ 52 * (2 : ℚ) ^ (-1022 : Int)))

/-- Each of the four operations on finite operands gives the exact rational result rounded to nearest, ties to even, an
infinity from half a unit beyond the largest finite number on, with the sign of the result; a zero divisor apart. -/
def Obligations.ArithmeticRoundsTheExactResult : Prop :=
  ∀ f ∈ [FpFormat.single, FpFormat.double], ∀ (op : FpOp) (a b : Nat) (x y : ℚ),
    f.finite a = some x → f.finite b = some y → (op = .div → y ≠ 0) →
    ∃ mag, f.NearestEven |fpExact op x y| mag ∧
      f.arith op a b = some (f.withSign (fpResultSign op (f.signOf a) (f.signOf b) (fpExact op x y)) mag)

/-- The special operands: NaNs, infinities, and division by zero. -/
def Obligations.SpecialOperands : Prop :=
  ∀ f ∈ [FpFormat.single, FpFormat.double], ∀ (a b : Nat) (s t : Bool) (q : Nat),
    (f.value a = .nan ∨ f.value b = .nan → ∀ op, f.arith op a b = none) ∧
    (f.value a = .inf s → f.value b = .inf s → f.arith .add a b = some (f.infBits s) ∧ f.arith .sub a b = none) ∧
    (f.value a = .inf s → f.value b = .inf !s → f.arith .add a b = none ∧ f.arith .sub a b = some (f.infBits s)) ∧
    (f.value a = .inf s → f.value b = .inf t →
      f.arith .mul a b = some (f.infBits (s != t)) ∧ f.arith .div a b = none) ∧
    (f.value a = .inf s → f.value b = .fin t q →
      f.arith .add a b = some (f.infBits s) ∧ f.arith .sub a b = some (f.infBits s) ∧
      f.arith .div a b = some (f.infBits (s != t)) ∧ (q = 0 → f.arith .mul a b = none) ∧
      (q ≠ 0 → f.arith .mul a b = some (f.infBits (s != t)))) ∧
    (f.value a = .fin s q → f.value b = .inf t →
      f.arith .add a b = some (f.infBits t) ∧ f.arith .sub a b = some (f.infBits !t) ∧
      f.arith .div a b = some (f.withSign (s != t) 0) ∧ (q = 0 → f.arith .mul a b = none) ∧
      (q ≠ 0 → f.arith .mul a b = some (f.infBits (s != t)))) ∧
    (f.value a = .fin s q → f.value b = .fin t 0 →
      (q = 0 → f.arith .div a b = none) ∧ (q ≠ 0 → f.arith .div a b = some (f.infBits (s != t))))

/-- R254, R255: the compares write the four flags by the relation of the two values and nothing else; unordered, they
write what FCMP_UNORDERED_FLAGS fixes, or any flags. -/
def Obligations.CompareInstructions : Prop :=
  ∀ (s : State) (rn rm rd : Reg), s.params.fpEnabled = true →
    let flagsFor := fun (rel : FpRel) (f : Flags) =>
      (rel = .equal → f = ⟨false, true, true, false⟩) ∧ (rel = .less → f = ⟨true, false, false, false⟩) ∧
      (rel = .greater → f = ⟨false, false, true, false⟩) ∧
      (rel = .unordered → ∀ g, s.params.fcmpUnordered = .fixed g → f = g)
    (decode (encodeR 0b00011110001 rm 0b001000 rn rd) = .ok (.fcmps rn rm) ∧
      ∃ t, exec (.fcmps rn rm) s = .next t ∧ OnlyFlags s t (flagsFor
        (fpCompare (FpFormat.single.value (s.readS rn).toNat) (FpFormat.single.value (s.readS rm).toNat)))) ∧
    (decode (encodeR 0b00011110011 rm 0b001000 rn rd) = .ok (.fcmpd rn rm) ∧
      ∃ t, exec (.fcmpd rn rm) s = .next t ∧ OnlyFlags s t (flagsFor
        (fpCompare (FpFormat.double.value (s.readD rn).toNat) (FpFormat.double.value (s.readD rm).toNat))))

/-- A compare orders the extended rational numbers the patterns denote, both zeros being 0; a NaN is unordered. The
conditions then hold as R256 lists them. -/
def Obligations.CompareOrdersTheValues : Prop :=
  (∀ f ∈ [FpFormat.single, FpFormat.double], ∀ a b : Nat,
    (∀ x y, f.extended a = some x → f.extended b = some y →
      (fpCompare (f.value a) (f.value b) = .equal ↔ x = y) ∧ (fpCompare (f.value a) (f.value b) = .less ↔ x < y) ∧
      (fpCompare (f.value a) (f.value b) = .greater ↔ y < x)) ∧
    (fpCompare (f.value a) (f.value b) = .unordered ↔ f.extended a = none ∨ f.extended b = none)) ∧
  (∀ (rel : FpRel) (g : Flags), rel.flags = some g →
    (condHolds .eq g = true ↔ rel = .equal) ∧ (condHolds .ne g = true ↔ rel ≠ .equal) ∧
    (∀ c ∈ [Cond.lt, .mi, .lo], condHolds c g = true ↔ rel = .less) ∧
    (∀ c ∈ [Cond.ge, .pl, .hs], condHolds c g = true ↔ rel ≠ .less) ∧
    (∀ c ∈ [Cond.gt, .hi], condHolds c g = true ↔ rel = .greater) ∧
    (∀ c ∈ [Cond.le, .ls], condHolds c g = true ↔ rel ≠ .greater) ∧
    condHolds .vs g = false ∧ condHolds .vc g = true)

/-- The floating-point transfers of R258 to R261; the base register is a general one, the other a floating-point one.
That the info of an abort is the address of the access, also where only a later byte of it is unmapped, is the model's
choice: log entry 22. -/
def Obligations.FloatingPointTransfers : Prop :=
  ∀ (s : State) (rt rn : Reg) (addr : BitVec 9), s.mem.wf → s.params.fpEnabled = true →
    let a := s.readX rn + addr.signExtend 64
    (AccessAllowed s.params false a 4 → ∃ t, exec (.ldurs rt rn addr) s = .next t ∧
      OnlyD s t rt fun w => ValueAt s.mem s.params.byteOrder a 4 ((w.setWidth 32).setWidth 64)) ∧
    (AccessAllowed s.params false a 8 → ∃ t, exec (.ldurd rt rn addr) s = .next t ∧
      OnlyD s t rt fun w => ValueAt s.mem s.params.byteOrder a 8 w) ∧
    (AccessAllowed s.params false a 4 → ∃ t, exec (.sturs rt rn addr) s = .next t ∧
      OnlyStore s t a 4 ((s.readS rt).setWidth 64)) ∧
    (AccessAllowed s.params false a 8 → ∃ t, exec (.sturd rt rn addr) s = .next t ∧ OnlyStore s t a 8 (s.readD rt)) ∧
    (¬ AccessAllowed s.params false a 4 →
      (∃ t, exec (.ldurs rt rn addr) s = .next t ∧ Raised s t .dataAbort (some a)) ∧
      ∃ t, exec (.sturs rt rn addr) s = .next t ∧ Raised s t .dataAbort (some a)) ∧
    (¬ AccessAllowed s.params false a 8 →
      (∃ t, exec (.ldurd rt rn addr) s = .next t ∧ Raised s t .dataAbort (some a)) ∧
      ∃ t, exec (.sturd rt rn addr) s = .next t ∧ Raised s t .dataAbort (some a)) ∧
    decode (encodeD 0b10111100010 addr rn rt) = .ok (.ldurs rt rn addr) ∧
    decode (encodeD 0b11111100010 addr rn rt) = .ok (.ldurd rt rn addr) ∧
    decode (encodeD 0b10111100000 addr rn rt) = .ok (.sturs rt rn addr) ∧
    decode (encodeD 0b11111100000 addr rn rt) = .ok (.sturd rt rn addr)

/-- Bits pass unchanged through memory, within the floating-point file and between the two files. -/
def Obligations.BitsThroughMemory : Prop :=
  ∀ (s : State) (rt rn rd : Reg) (addr : BitVec 9), s.mem.wf → s.params.fpEnabled = true →
    (AccessAllowed s.params false (s.dAddr rn addr) 8 →
      (∃ t, execSeq [.sturd rt rn addr, .ldurd rd rn addr] s = .next t ∧ t.readD rd = s.readD rt) ∧
      (rd ≠ 31 → ∃ t, execSeq [.sturd rt rn addr, .ldur rd rn addr] s = .next t ∧ t.readX rd = s.readD rt) ∧
      ∃ t, execSeq [.stur rt rn addr, .ldurd rd rn addr] s = .next t ∧ t.readD rd = s.readX rt) ∧
    (AccessAllowed s.params false (s.dAddr rn addr) 4 →
      ∃ t, execSeq [.sturs rt rn addr, .ldurs rd rn addr] s = .next t ∧ t.readS rd = s.readS rt)

/-- The default numerics: adding and multiplying are commutative, subtracting adds the operand with its sign flipped,
and addition is not associative. -/
def Obligations.FloatingPointAlgebra : Prop :=
  (∀ (f : FpFormat) (a b : Nat), f.arith .add a b = f.arith .add b a ∧ f.arith .mul a b = f.arith .mul b a) ∧
  (∀ a b : Word32,
    FpFormat.single.arith .sub a.toNat b.toNat = FpFormat.single.arith .add a.toNat (b ^^^ 0x80000000).toNat) ∧
  (∀ a b : Word, FpFormat.double.arith .sub a.toNat b.toNat =
    FpFormat.double.arith .add a.toNat (b ^^^ 0x8000000000000000).toNat) ∧
  (∃ a b c ab bc : Nat, FpFormat.single.arith .add a b = some ab ∧ FpFormat.single.arith .add b c = some bc ∧
    FpFormat.single.arith .add ab c ≠ FpFormat.single.arith .add a bc)

/-! ## Exceptions and the step -/

/-- R310: what taking an exception leaves, with the ten class numbers of R300; the machine then has no further step. -/
def Obligations.TakingAnException : Prop :=
  (∀ (s : State) (e : Exc), s.raise e = .next (s.takeException e) ∧ Raised s (s.takeException e) e.cls e.info ∧
    step (s.takeException e) = .fault (.faulted e.cls)) ∧
  [ExcClass.unknown, .simdDisabled, .illegalState, .supervisorCall, .instructionAbort, .misalignedPc, .dataAbort,
    .floatingPoint, .dataBreakpoint, .swBreakpoint].map ExcClass.number = [0, 7, 14, 17, 32, 34, 36, 40, 52, 56]

/-- The fetch of R60 in the order of its checks; R302: when it is an Instruction Abort. -/
def Obligations.FetchChecks : Prop :=
  ∀ s : State, s.faultRecord = none →
    (s.pc.toNat % 4 ≠ 0 → ∃ t, step s = .next t ∧ Raised s t .misalignedPc (some s.pc)) ∧
    (s.pc.toNat % 4 = 0 → s.pc = exitPc s.params → step s = .fault .runEnded) ∧
    (s.pc.toNat % 4 = 0 → s.pc ≠ exitPc s.params →
      (s.pc.toNat < s.params.textBase.toNat ∨
        s.params.textBase.toNat + 4 * s.params.text.length ≤ s.pc.toNat) →
      ∃ t, step s = .next t ∧ Raised s t .instructionAbort (some s.pc)) ∧
    (∀ k w, s.pc.toNat % 4 = 0 → s.pc ≠ exitPc s.params → s.pc.toNat = s.params.textBase.toNat + 4 * k →
      s.params.text[k]? = some w → fetch s.params s.pc = .word w)

/-- A step runs the decoded instruction: where the word at the pc decodes to an instruction the implementation has, and no
unused field is refused, the step is exec of it. exec itself moves the pc. -/
def Obligations.StepRunsTheInstruction : Prop :=
  ∀ (s : State) (k : Nat) (w : Word32) (i : Instr), s.faultRecord = none → s.pc.toNat % 4 = 0 →
    s.pc ≠ exitPc s.params → s.pc.toNat = s.params.textBase.toNat + 4 * k → s.params.text[k]? = some w →
    decode w = .ok i → i.wellFormed s.params = true →
    (s.params.strictUnused = true → w &&& unusedMask i.mnemonic = 0) → step s = exec i s

/-- exec of every instruction answers a next state from every state: its effect, or the state that has taken its
exception. That a raise counts as a next state is the model's choice (log entry 20): R310 gives the machine no further step
after it, and the step after it answers a fault (TakingAnException). -/
def Obligations.EveryInstructionHasANextState : Prop :=
  ∀ (i : Instr) (s : State), ∃ t, exec i s = .next t

/-- R345: the three ends. A step goes on, or ends the run at EXIT_PC, or finds a taken exception. The runner goes on
after a next state, reports `done` at EXIT_PC, the fault at a fault record, and out of fuel when it has none left; more
fuel does not change a report of an end; a branch to itself has no end. (The names the step gives the two ends are the
model's: log entry 20.) -/
def Obligations.ThreeEndsOfARun : Prop :=
  (∀ s : State,
    (∃ t, s.faultRecord = none ∧ ¬ (s.pc.toNat % 4 = 0 ∧ s.pc = exitPc s.params) ∧ step s = .next t) ∨
    (s.faultRecord = none ∧ s.pc.toNat % 4 = 0 ∧ s.pc = exitPc s.params ∧ step s = .fault .runEnded) ∨
    (∃ r, s.faultRecord = some r ∧ step s = .fault (.faulted r.cls))) ∧
  (∀ s : State, runFor 0 s = .outOfFuel s) ∧
  (∀ (k : Nat) (s t : State), step s = .next t → runFor (k + 1) s = runFor k t) ∧
  (∀ (k : Nat) (s : State), step s = .fault .runEnded → runFor (k + 1) s = .done s) ∧
  (∀ (k : Nat) (s : State) (r : FaultRecord), s.faultRecord = some r → runFor (k + 1) s = .fault r s) ∧
  (∀ (k : Nat) (s t : State), runFor k s = .done t →
    t.faultRecord = none ∧ t.pc = exitPc t.params ∧ ∀ j, runFor (k + j) s = .done t) ∧
  (∀ (k : Nat) (s t : State) (r : FaultRecord), runFor k s = .fault r t →
    t.faultRecord = some r ∧ ∀ j, runFor (k + j) s = .fault r t) ∧
  (∀ (k : Nat) (s : State) (r : Refusal), runFor k s ≠ .refused r) ∧
  (∀ p : Params, p.exitPc = none → exitPc p = p.textBase + BitVec.ofNat 64 (4 * p.text.length)) ∧
  (∀ (k : Nat) (s : State), s.faultRecord = none → fetch s.params s.pc = .word 0x14000000 →
    Instr.wellFormed s.params (.b 0) = true → runFor k s = .outOfFuel s)

/-- R315: an instruction that raises has no effect but the exception's. -/
def Obligations.ExceptionsArePrecise : Prop :=
  ∀ (s t : State) (r : FaultRecord), s.faultRecord = none → step s = .next t → t.faultRecord = some r →
    Raised s t r.cls r.info

/-- R305, and R263's FP_ENABLED: with the floating-point registers disabled every floating-point instruction takes class 7, whatever its
address; a step takes no other class than that and the four that can occur. -/
def Obligations.ClassesThatOccur : Prop :=
  (∀ (s : State) (rd rn rm rt : Reg) (addr : BitVec 9), s.params.fpEnabled = false →
    ∀ i ∈ [Instr.fadds rd rn rm, .fsubs rd rn rm, .fmuls rd rn rm, .fdivs rd rn rm, .faddd rd rn rm, .fsubd rd rn rm,
        .fmuld rd rn rm, .fdivd rd rn rm, .fcmps rn rm, .fcmpd rn rm, .ldurs rt rn addr, .ldurd rt rn addr,
        .sturs rt rn addr, .sturd rt rn addr],
      ∃ t, exec i s = .next t ∧ Raised s t .simdDisabled none) ∧
  (∀ (s t : State) (r : FaultRecord), s.faultRecord = none → step s = .next t → t.faultRecord = some r →
    r.cls = .unknown ∨ r.cls = .instructionAbort ∨ r.cls = .misalignedPc ∨ r.cls = .dataAbort ∨
      (r.cls = .simdDisabled ∧ s.params.fpEnabled = false)) ∧
  Params.default.fpEnabled = true

/-- R311: only an exception writes ESR, with the class's number, and no instruction's other effects depend on it. -/
def Obligations.EsrIsWrittenByExceptionsAlone : Prop :=
  (∀ s t : State, s.faultRecord = none → step s = .next t →
    (t.faultRecord = none → t.esr = s.esr) ∧
    ∀ r, t.faultRecord = some r → t.esr.extractLsb' 26 6 = r.cls.number ∧ t.esr.extractLsb' 25 1 = 1) ∧
  (∀ (i : Instr) (s t : State) (e : Word32), exec i s = .next t →
    ∃ e', exec i { s with esr := e } = .next { t with esr := e' })

/-- R25: exactly the flag-setting instructions write the flags, all four together, whatever they were; only B.cond
reads them. -/
def Obligations.FlagsWrittenAndRead : Prop :=
  ∀ (i : Instr) (s t : State) (f : Flags), exec i s = .next t →
    (setsFlags i = false → t.flags = s.flags) ∧
    (i.mnemonic ≠ .bCond → ∃ g, exec i (s.setFlags f) = .next (t.setFlags g) ∧
      (setsFlags i = false → g = f) ∧
      (setsFlags i = true → s.faultRecord = none → t.faultRecord = none → g = t.flags))

/-- Every instruction changes no general register but its destination, no floating-point register but its destination,
and no byte of memory outside the range it stores to. -/
def Obligations.OnlyTheDestinationChanges : Prop :=
  ∀ (i : Instr) (s t : State), exec i s = .next t →
    (∀ r, destX i ≠ some r → t.readX r = s.readX r) ∧
    (∀ r, destD i ≠ some r → t.readD r = s.readD r) ∧
    (∀ a : Word, (∀ b n j, storeRange i s = some (b, n) → j < n → a ≠ b + BitVec.ofNat 64 j) →
      t.mem.read a.toNat = s.mem.read a.toNat)

/-- The launch's parameters, the program image among them, never change during a run. -/
def Obligations.ParametersNeverChange : Prop :=
  ∀ s t : State, step s = .next t → t.params = s.params

/-- Every step keeps the invariant: memory in its form, an armed monitor at a multiple of 8, and after an exception ESR, the
monitor and the pc as it left them. -/
def Obligations.EveryStepKeepsTheInvariant : Prop :=
  ∀ s t : State, s.Inv → step s = .next t → t.Inv

/-- The invariant holds at reset and after every launch with legal data. -/
def Obligations.InvariantHoldsAtReset : Prop :=
  State.reset.Inv ∧ ∀ l : Launch, Launch.legal l → (State.ofLaunch l).Inv

/-- R340: the state a launch starts in. What reset holds where the spec gives no value is the model's choice and is not
stated. -/
def Obligations.ResetState : Prop :=
  (∀ l : Launch,
    (State.ofLaunch l).pc = l.entryPc.getD l.params.textBase ∧ (State.ofLaunch l).readX 31 = 0 ∧
    (State.ofLaunch l).monitor = none ∧ (State.ofLaunch l).faultRecord = none ∧
    (∀ r : Reg, (h : r.toNat < 31) → (State.ofLaunch l).readX r = l.regs.x[r.toNat]) ∧
    (∀ r : Reg, (State.ofLaunch l).readD r = l.regs.d[r.toNat]'(by exact r.isLt)) ∧
    (State.ofLaunch l).flags = l.regs.flags ∧ (State.ofLaunch l).esr = l.regs.esr ∧
    (State.ofLaunch l).mem = l.data ∧ (State.ofLaunch l).params = l.params) ∧
  State.reset.pc = State.reset.params.textBase ∧ State.reset.readX 31 = 0 ∧ State.reset.monitor = none ∧
    State.reset.faultRecord = none

/-- IMPLEMENTED_SUBSET (D30; 70_reset_and_hazards.md section 5): a word that decodes to no instruction of the subset, or to
none at all, raises Unknown; by default the subset is all 55 instructions. B.cond is one instruction of it, with its
fourteen conditions: log entry 26. -/
def Obligations.ImplementedSubset : Prop :=
  (∀ (s : State) (w : Word32), s.faultRecord = none → fetch s.params s.pc = .word w →
    (∀ i, decode w = .ok i → i.mnemonic ∉ s.params.implemented) →
    ∃ t, step s = .next t ∧ Raised s t .unknown none) ∧
  (∀ m : Mnemonic, m ∈ Params.default.implemented) ∧ Params.default.implemented.length = 55
end

