-- ==== Sys2Proof/Laws/Encoding.lean ====
section
/-! SUPPORT. The words of the six formats, bit by bit: which mask leaves which fixed bits, and which field reads back
which operand (30_encoding.md R82 to R87, R97, R100). -/

namespace Sys2Proof

/-! ### The R format -/

theorem encodeR_getLsbD (op : BitVec 11) (rm : Reg) (sh : BitVec 6) (rn : Reg) (rd : Reg) (i : Nat) :
    (encodeR op rm sh rn rd).getLsbD i =
      (if i < 5 then rd.getLsbD i else if i < 10 then rn.getLsbD (i - 5) else if i < 16 then sh.getLsbD (i - 10) else if i < 21 then rm.getLsbD (i - 16) else op.getLsbD (i - 21)) := by
  rw [encodeR]
  repeat rw [BitVec.getLsbD_append]
  simp only [Nat.sub_sub]
  split_ifs <;> first | rfl | omega

theorem encodeR_and_op (op : BitVec 11) (rm : Reg) (sh : BitVec 6) (rn : Reg) (rd : Reg) :
    encodeR op rm sh rn rd &&& 0xFFE00000 = (op.setWidth 32 <<< 21) := by
  apply BitVec.eq_of_getLsbD_eq; intro i hi
  rw [BitVec.getLsbD_and, encodeR_getLsbD]
  interval_cases i <;> simp

theorem encodeR_and_op_shamt (op : BitVec 11) (rm : Reg) (sh : BitVec 6) (rn : Reg) (rd : Reg) :
    encodeR op rm sh rn rd &&& 0xFFE0FC00 = (op.setWidth 32 <<< 21) ||| (sh.setWidth 32 <<< 10) := by
  apply BitVec.eq_of_getLsbD_eq; intro i hi
  rw [BitVec.getLsbD_and, encodeR_getLsbD]
  interval_cases i <;> simp

@[simp] theorem fieldRd_encodeR (op : BitVec 11) (rm : Reg) (sh : BitVec 6) (rn : Reg) (rd : Reg) :
    fieldRd (encodeR op rm sh rn rd) = rd := by
  unfold fieldRd; apply BitVec.eq_of_getLsbD_eq; intro i hi
  rw [BitVec.getLsbD_extractLsb', encodeR_getLsbD]
  simp [hi]

@[simp] theorem fieldRn_encodeR (op : BitVec 11) (rm : Reg) (sh : BitVec 6) (rn : Reg) (rd : Reg) :
    fieldRn (encodeR op rm sh rn rd) = rn := by
  unfold fieldRn; apply BitVec.eq_of_getLsbD_eq; intro i hi
  rw [BitVec.getLsbD_extractLsb', encodeR_getLsbD]
  split_ifs <;> simp_all <;> omega

@[simp] theorem fieldRm_encodeR (op : BitVec 11) (rm : Reg) (sh : BitVec 6) (rn : Reg) (rd : Reg) :
    fieldRm (encodeR op rm sh rn rd) = rm := by
  unfold fieldRm; apply BitVec.eq_of_getLsbD_eq; intro i hi
  rw [BitVec.getLsbD_extractLsb', encodeR_getLsbD]
  split_ifs <;> simp_all <;> omega

@[simp] theorem fieldShamt_encodeR (op : BitVec 11) (rm : Reg) (sh : BitVec 6) (rn : Reg) (rd : Reg) :
    fieldShamt (encodeR op rm sh rn rd) = sh := by
  unfold fieldShamt; apply BitVec.eq_of_getLsbD_eq; intro i hi
  rw [BitVec.getLsbD_extractLsb', encodeR_getLsbD]
  split_ifs <;> simp_all <;> omega

/-! ### The I format -/

theorem encodeI_getLsbD (op : BitVec 10) (imm : BitVec 12) (rn : Reg) (rd : Reg) (i : Nat) :
    (encodeI op imm rn rd).getLsbD i =
      (if i < 5 then rd.getLsbD i else if i < 10 then rn.getLsbD (i - 5) else if i < 22 then imm.getLsbD (i - 10) else op.getLsbD (i - 22)) := by
  rw [encodeI]
  repeat rw [BitVec.getLsbD_append]
  simp only [Nat.sub_sub]
  split_ifs <;> first | rfl | omega

theorem encodeI_and_op (op : BitVec 10) (imm : BitVec 12) (rn : Reg) (rd : Reg) :
    encodeI op imm rn rd &&& 0xFFC00000 = (op.setWidth 32 <<< 22) := by
  apply BitVec.eq_of_getLsbD_eq; intro i hi
  rw [BitVec.getLsbD_and, encodeI_getLsbD]
  interval_cases i <;> simp

@[simp] theorem fieldRd_encodeI (op : BitVec 10) (imm : BitVec 12) (rn : Reg) (rd : Reg) :
    fieldRd (encodeI op imm rn rd) = rd := by
  unfold fieldRd; apply BitVec.eq_of_getLsbD_eq; intro i hi
  rw [BitVec.getLsbD_extractLsb', encodeI_getLsbD]
  simp [hi]

@[simp] theorem fieldRn_encodeI (op : BitVec 10) (imm : BitVec 12) (rn : Reg) (rd : Reg) :
    fieldRn (encodeI op imm rn rd) = rn := by
  unfold fieldRn; apply BitVec.eq_of_getLsbD_eq; intro i hi
  rw [BitVec.getLsbD_extractLsb', encodeI_getLsbD]
  split_ifs <;> simp_all <;> omega

@[simp] theorem fieldImm_encodeI (op : BitVec 10) (imm : BitVec 12) (rn : Reg) (rd : Reg) :
    fieldImm (encodeI op imm rn rd) = imm := by
  unfold fieldImm; apply BitVec.eq_of_getLsbD_eq; intro i hi
  rw [BitVec.getLsbD_extractLsb', encodeI_getLsbD]
  split_ifs <;> simp_all <;> omega

/-! ### The D format -/

theorem encodeD_getLsbD (op : BitVec 11) (addr : BitVec 9) (rn : Reg) (rt : Reg) (i : Nat) :
    (encodeD op addr rn rt).getLsbD i =
      (if i < 5 then rt.getLsbD i else if i < 10 then rn.getLsbD (i - 5) else if i < 12 then false else if i < 21 then addr.getLsbD (i - 12) else op.getLsbD (i - 21)) := by
  rw [encodeD]
  repeat rw [BitVec.getLsbD_append]
  simp only [Nat.sub_sub]
  split_ifs <;> first | rfl | omega | simp

theorem encodeD_and_op (op : BitVec 11) (addr : BitVec 9) (rn : Reg) (rt : Reg) :
    encodeD op addr rn rt &&& 0xFFE00000 = (op.setWidth 32 <<< 21) := by
  apply BitVec.eq_of_getLsbD_eq; intro i hi
  rw [BitVec.getLsbD_and, encodeD_getLsbD]
  interval_cases i <;> simp

@[simp] theorem fieldRd_encodeD (op : BitVec 11) (addr : BitVec 9) (rn : Reg) (rt : Reg) :
    fieldRd (encodeD op addr rn rt) = rt := by
  unfold fieldRd; apply BitVec.eq_of_getLsbD_eq; intro i hi
  rw [BitVec.getLsbD_extractLsb', encodeD_getLsbD]
  simp [hi]

@[simp] theorem fieldRn_encodeD (op : BitVec 11) (addr : BitVec 9) (rn : Reg) (rt : Reg) :
    fieldRn (encodeD op addr rn rt) = rn := by
  unfold fieldRn; apply BitVec.eq_of_getLsbD_eq; intro i hi
  rw [BitVec.getLsbD_extractLsb', encodeD_getLsbD]
  split_ifs <;> simp_all <;> omega

@[simp] theorem fieldAddr_encodeD (op : BitVec 11) (addr : BitVec 9) (rn : Reg) (rt : Reg) :
    fieldAddr (encodeD op addr rn rt) = addr := by
  unfold fieldAddr; apply BitVec.eq_of_getLsbD_eq; intro i hi
  rw [BitVec.getLsbD_extractLsb', encodeD_getLsbD]
  split_ifs <;> simp_all <;> omega

/-! ### The B format -/

theorem encodeB_getLsbD (op : BitVec 6) (br : BitVec 26) (i : Nat) :
    (encodeB op br).getLsbD i =
      (if i < 26 then br.getLsbD i else op.getLsbD (i - 26)) := by
  rw [encodeB]
  rw [BitVec.getLsbD_append]

theorem encodeB_and_op (op : BitVec 6) (br : BitVec 26) :
    encodeB op br &&& 0xFC000000 = (op.setWidth 32 <<< 26) := by
  apply BitVec.eq_of_getLsbD_eq; intro i hi
  rw [BitVec.getLsbD_and, encodeB_getLsbD]
  interval_cases i <;> simp

@[simp] theorem fieldBr_encodeB (op : BitVec 6) (br : BitVec 26) :
    fieldBr (encodeB op br) = br := by
  unfold fieldBr; apply BitVec.eq_of_getLsbD_eq; intro i hi
  rw [BitVec.getLsbD_extractLsb', encodeB_getLsbD]
  simp [hi]

/-! ### The CB format -/

theorem encodeCB_getLsbD (op : BitVec 8) (cbr : BitVec 19) (rt : Reg) (i : Nat) :
    (encodeCB op cbr rt).getLsbD i =
      (if i < 5 then rt.getLsbD i else if i < 24 then cbr.getLsbD (i - 5) else op.getLsbD (i - 24)) := by
  rw [encodeCB]
  repeat rw [BitVec.getLsbD_append]
  simp only [Nat.sub_sub]
  split_ifs <;> first | rfl | omega

theorem encodeCB_and_op (op : BitVec 8) (cbr : BitVec 19) (rt : Reg) :
    encodeCB op cbr rt &&& 0xFF000000 = (op.setWidth 32 <<< 24) := by
  apply BitVec.eq_of_getLsbD_eq; intro i hi
  rw [BitVec.getLsbD_and, encodeCB_getLsbD]
  interval_cases i <;> simp

theorem encodeCB_and_op_rt (op : BitVec 8) (cbr : BitVec 19) (rt : Reg) :
    encodeCB op cbr rt &&& 0xFF00001F = (op.setWidth 32 <<< 24) ||| rt.setWidth 32 := by
  apply BitVec.eq_of_getLsbD_eq; intro i hi
  rw [BitVec.getLsbD_and, encodeCB_getLsbD]
  interval_cases i <;> simp

@[simp] theorem fieldRd_encodeCB (op : BitVec 8) (cbr : BitVec 19) (rt : Reg) :
    fieldRd (encodeCB op cbr rt) = rt := by
  unfold fieldRd; apply BitVec.eq_of_getLsbD_eq; intro i hi
  rw [BitVec.getLsbD_extractLsb', encodeCB_getLsbD]
  simp [hi]

@[simp] theorem fieldCbr_encodeCB (op : BitVec 8) (cbr : BitVec 19) (rt : Reg) :
    fieldCbr (encodeCB op cbr rt) = cbr := by
  unfold fieldCbr; apply BitVec.eq_of_getLsbD_eq; intro i hi
  rw [BitVec.getLsbD_extractLsb', encodeCB_getLsbD]
  split_ifs <;> simp_all <;> omega

/-! ### The IM format -/

theorem encodeIM_getLsbD (op : BitVec 9) (hw : BitVec 2) (mov : BitVec 16) (rd : Reg) (i : Nat) :
    (encodeIM op hw mov rd).getLsbD i =
      (if i < 5 then rd.getLsbD i else if i < 21 then mov.getLsbD (i - 5) else if i < 23 then hw.getLsbD (i - 21) else op.getLsbD (i - 23)) := by
  rw [encodeIM]
  repeat rw [BitVec.getLsbD_append]
  simp only [Nat.sub_sub]
  split_ifs <;> first | rfl | omega

theorem encodeIM_and_op (op : BitVec 9) (hw : BitVec 2) (mov : BitVec 16) (rd : Reg) :
    encodeIM op hw mov rd &&& 0xFF800000 = (op.setWidth 32 <<< 23) := by
  apply BitVec.eq_of_getLsbD_eq; intro i hi
  rw [BitVec.getLsbD_and, encodeIM_getLsbD]
  interval_cases i <;> simp

@[simp] theorem fieldRd_encodeIM (op : BitVec 9) (hw : BitVec 2) (mov : BitVec 16) (rd : Reg) :
    fieldRd (encodeIM op hw mov rd) = rd := by
  unfold fieldRd; apply BitVec.eq_of_getLsbD_eq; intro i hi
  rw [BitVec.getLsbD_extractLsb', encodeIM_getLsbD]
  simp [hi]

@[simp] theorem fieldMov_encodeIM (op : BitVec 9) (hw : BitVec 2) (mov : BitVec 16) (rd : Reg) :
    fieldMov (encodeIM op hw mov rd) = mov := by
  unfold fieldMov; apply BitVec.eq_of_getLsbD_eq; intro i hi
  rw [BitVec.getLsbD_extractLsb', encodeIM_getLsbD]
  split_ifs <;> simp_all <;> omega

@[simp] theorem fieldHw_encodeIM (op : BitVec 9) (hw : BitVec 2) (mov : BitVec 16) (rd : Reg) :
    fieldHw (encodeIM op hw mov rd) = hw := by
  unfold fieldHw; apply BitVec.eq_of_getLsbD_eq; intro i hi
  rw [BitVec.getLsbD_extractLsb', encodeIM_getLsbD]
  split_ifs <;> simp_all <;> omega

end Sys2Proof
end

