-- ==== Sys2Proof/Laws/Memory.lean ====
section
/-! SUPPORT. Data memory: reading after writing, and every memory operation keeps the canonical form. -/

namespace Sys2Proof.Machine

theorem Memory.wf_nil : Memory.wf [] := ⟨List.Pairwise.nil, by simp⟩

theorem Memory.wf_tail {c : Host.Cell} {m : Memory} (h : Memory.wf (c :: m)) : Memory.wf m :=
  ⟨(List.pairwise_cons.1 h.1).2, fun d hd => h.2 d (List.mem_cons_of_mem _ hd)⟩

/-- Below every listed address a memory reads as unlisted. -/
theorem Memory.read_below {m : Memory} {a : Nat} (h : ∀ c ∈ m, a < c.1) : m.read a = Config.unlistedByte := by
  induction m with
  | nil => rfl
  | cons c m ih =>
    have : c.1 ≠ a := by have := h c (by simp); omega
    simp [Memory.read, this, ih fun d hd => h d (List.mem_cons_of_mem _ hd)]

theorem Memory.mem_entry {a : Nat} {b : Byte} {rest : Memory} {c : Host.Cell} (h : c ∈ Memory.entry a b rest) :
    c = (a, b) ∨ c ∈ rest := by
  unfold Memory.entry at h; split at h
  · exact .inr h
  · simpa using h

/-- An entry before entries of higher addresses keeps the form. -/
theorem Memory.wf_entry {a : Nat} {b : Byte} {rest : Memory} (ha : a < 0x10000000000000000)
    (hr : rest.wf) (hb : ∀ c ∈ rest, a < c.1) : (Memory.entry a b rest).wf := by
  unfold Memory.entry; split
  · exact hr
  · next hne =>
    refine ⟨List.pairwise_cons.2 ⟨hb, hr.1⟩, fun c hc => ?_⟩
    rcases List.mem_cons.1 hc with rfl | hc
    · exact ⟨ha, hne⟩
    · exact hr.2 c hc

theorem Memory.mem_write {m : Memory} {a : Nat} {b : Byte} {c : Host.Cell} (h : c ∈ m.write a b) :
    c = (a, b) ∨ c ∈ m := by
  induction m with
  | nil =>
    simp only [Memory.write] at h
    rcases Memory.mem_entry h with h | h
    · exact .inl h
    · simp at h
  | cons d m ih =>
    obtain ⟨k, v⟩ := d
    simp only [Memory.write] at h
    split at h
    · exact Memory.mem_entry h
    · split at h
      · rcases Memory.mem_entry h with h | h
        · exact .inl h
        · exact .inr (List.mem_cons_of_mem _ h)
      · rcases List.mem_cons.1 h with h | h
        · exact .inr (by simp [h])
        · rcases ih h with h | h
          · exact .inl h
          · exact .inr (List.mem_cons_of_mem _ h)

/-- A byte write keeps the form. -/
theorem Memory.wf_write {m : Memory} (hm : m.wf) {a : Nat} (ha : a < 0x10000000000000000) (b : Byte) :
    (m.write a b).wf := by
  induction m with
  | nil => exact Memory.wf_entry ha hm (by simp)
  | cons d m ih =>
    obtain ⟨k, v⟩ := d
    have hlt : ∀ c ∈ m, k < c.1 := (List.pairwise_cons.1 hm.1).1
    simp only [Memory.write]
    split
    · next h =>
      refine Memory.wf_entry ha hm fun c hc => ?_
      rcases List.mem_cons.1 hc with rfl | hc
      · exact h
      · exact lt_trans h (hlt c hc)
    · split
      · next h => subst h; exact Memory.wf_entry ha (Memory.wf_tail hm) hlt
      · next h1 h2 =>
        have hw := ih (Memory.wf_tail hm)
        refine ⟨List.pairwise_cons.2 ⟨fun c hc => ?_, hw.1⟩, fun c hc => ?_⟩
        · rcases Memory.mem_write hc with rfl | hc
          · show k < a
            omega
          · exact hlt c hc
        · rcases List.mem_cons.1 hc with rfl | hc
          · exact hm.2 _ (by simp)
          · exact hw.2 c hc

/-- Writing a list of bytes keeps the form. -/
theorem Memory.wf_writeBytes (bs : List Byte) : ∀ {m : Memory} (_ : m.wf) (addr : Word), (m.writeBytes addr bs).wf := by
  induction bs with
  | nil => intro m h addr; exact h
  | cons b bs ih => intro m h addr; exact ih (Memory.wf_write h addr.isLt b) (addr + 1)

/-- A store keeps the form. -/
theorem Memory.wf_store {m : Memory} (h : m.wf) (o : ByteOrder) (addr : Word) (n : Nat) (v : Word) :
    (m.store o addr n v).wf := Memory.wf_writeBytes _ h addr

theorem Memory.read_entry_self {a : Nat} {b : Byte} {rest : Memory} (h : ∀ c ∈ rest, a < c.1) :
    (Memory.entry a b rest).read a = b := by
  unfold Memory.entry; split
  · next e => rw [Memory.read_below h, e]
  · simp [Memory.read]

theorem Memory.read_entry_ne {a a' : Nat} (h : a' ≠ a) (b : Byte) (rest : Memory) :
    (Memory.entry a b rest).read a' = rest.read a' := by
  unfold Memory.entry; split
  · rfl
  · simp [Memory.read, Ne.symm h]

/-- Reading the byte just written. -/
theorem Memory.read_write_self {m : Memory} (hm : m.wf) (a : Nat) (b : Byte) : (m.write a b).read a = b := by
  induction m with
  | nil => exact Memory.read_entry_self (by simp)
  | cons d m ih =>
    obtain ⟨k, v⟩ := d
    have hlt : ∀ c ∈ m, k < c.1 := (List.pairwise_cons.1 hm.1).1
    simp only [Memory.write]
    split
    · next h =>
      refine Memory.read_entry_self fun c hc => ?_
      rcases List.mem_cons.1 hc with rfl | hc
      · exact h
      · exact lt_trans h (hlt c hc)
    · split
      · next h => subst h; exact Memory.read_entry_self hlt
      · next h => simp [Memory.read, Ne.symm h, ih (Memory.wf_tail hm)]

/-- A byte write leaves every other address alone. -/
theorem Memory.read_write_ne (m : Memory) {a a' : Nat} (h : a' ≠ a) (b : Byte) : (m.write a b).read a' = m.read a' := by
  induction m with
  | nil => exact Memory.read_entry_ne h b []
  | cons d m ih =>
    obtain ⟨k, v⟩ := d
    simp only [Memory.write]
    split
    · exact Memory.read_entry_ne h b _
    · split
      · next e => subst e; rw [Memory.read_entry_ne h]; simp [Memory.read, Ne.symm h]
      · simp [Memory.read, ih]

end Sys2Proof.Machine
end

