-- ==== Sys2Proof/Laws/State.lean ====
section
/-! SUPPORT. Every field of the state after every update: no proof need unfold a record update. The register files after
a write are in Laws/Registers.lean. -/

namespace Sys2Proof.Machine

/-! ### setPc -/

@[simp] theorem State.setPc_x (s : State) (t : Word) : (s.setPc t).x = s.x := rfl
@[simp] theorem State.setPc_pc (s : State) (t : Word) : (s.setPc t).pc = t := rfl
@[simp] theorem State.setPc_flags (s : State) (t : Word) : (s.setPc t).flags = s.flags := rfl
@[simp] theorem State.setPc_d (s : State) (t : Word) : (s.setPc t).d = s.d := rfl
@[simp] theorem State.setPc_esr (s : State) (t : Word) : (s.setPc t).esr = s.esr := rfl
@[simp] theorem State.setPc_mem (s : State) (t : Word) : (s.setPc t).mem = s.mem := rfl
@[simp] theorem State.setPc_monitor (s : State) (t : Word) : (s.setPc t).monitor = s.monitor := rfl
@[simp] theorem State.setPc_faultRecord (s : State) (t : Word) : (s.setPc t).faultRecord = s.faultRecord := rfl
@[simp] theorem State.setPc_draws (s : State) (t : Word) : (s.setPc t).draws = s.draws := rfl
@[simp] theorem State.setPc_params (s : State) (t : Word) : (s.setPc t).params = s.params := rfl

/-! ### nextPc -/

@[simp] theorem State.nextPc_x (s : State) : (s.nextPc).x = s.x := rfl
@[simp] theorem State.nextPc_pc (s : State) : (s.nextPc).pc = s.pc + 4 := rfl
@[simp] theorem State.nextPc_flags (s : State) : (s.nextPc).flags = s.flags := rfl
@[simp] theorem State.nextPc_d (s : State) : (s.nextPc).d = s.d := rfl
@[simp] theorem State.nextPc_esr (s : State) : (s.nextPc).esr = s.esr := rfl
@[simp] theorem State.nextPc_mem (s : State) : (s.nextPc).mem = s.mem := rfl
@[simp] theorem State.nextPc_monitor (s : State) : (s.nextPc).monitor = s.monitor := rfl
@[simp] theorem State.nextPc_faultRecord (s : State) : (s.nextPc).faultRecord = s.faultRecord := rfl
@[simp] theorem State.nextPc_draws (s : State) : (s.nextPc).draws = s.draws := rfl
@[simp] theorem State.nextPc_params (s : State) : (s.nextPc).params = s.params := rfl

/-! ### setFlags -/

@[simp] theorem State.setFlags_x (s : State) (f : Flags) : (s.setFlags f).x = s.x := rfl
@[simp] theorem State.setFlags_pc (s : State) (f : Flags) : (s.setFlags f).pc = s.pc := rfl
@[simp] theorem State.setFlags_flags (s : State) (f : Flags) : (s.setFlags f).flags = f := rfl
@[simp] theorem State.setFlags_d (s : State) (f : Flags) : (s.setFlags f).d = s.d := rfl
@[simp] theorem State.setFlags_esr (s : State) (f : Flags) : (s.setFlags f).esr = s.esr := rfl
@[simp] theorem State.setFlags_mem (s : State) (f : Flags) : (s.setFlags f).mem = s.mem := rfl
@[simp] theorem State.setFlags_monitor (s : State) (f : Flags) : (s.setFlags f).monitor = s.monitor := rfl
@[simp] theorem State.setFlags_faultRecord (s : State) (f : Flags) : (s.setFlags f).faultRecord = s.faultRecord := rfl
@[simp] theorem State.setFlags_draws (s : State) (f : Flags) : (s.setFlags f).draws = s.draws := rfl
@[simp] theorem State.setFlags_params (s : State) (f : Flags) : (s.setFlags f).params = s.params := rfl

/-! ### setMonitor -/

@[simp] theorem State.setMonitor_x (s : State) (m : Option Word) : (s.setMonitor m).x = s.x := rfl
@[simp] theorem State.setMonitor_pc (s : State) (m : Option Word) : (s.setMonitor m).pc = s.pc := rfl
@[simp] theorem State.setMonitor_flags (s : State) (m : Option Word) : (s.setMonitor m).flags = s.flags := rfl
@[simp] theorem State.setMonitor_d (s : State) (m : Option Word) : (s.setMonitor m).d = s.d := rfl
@[simp] theorem State.setMonitor_esr (s : State) (m : Option Word) : (s.setMonitor m).esr = s.esr := rfl
@[simp] theorem State.setMonitor_mem (s : State) (m : Option Word) : (s.setMonitor m).mem = s.mem := rfl
@[simp] theorem State.setMonitor_monitor (s : State) (m : Option Word) : (s.setMonitor m).monitor = m := rfl
@[simp] theorem State.setMonitor_faultRecord (s : State) (m : Option Word) : (s.setMonitor m).faultRecord = s.faultRecord := rfl
@[simp] theorem State.setMonitor_draws (s : State) (m : Option Word) : (s.setMonitor m).draws = s.draws := rfl
@[simp] theorem State.setMonitor_params (s : State) (m : Option Word) : (s.setMonitor m).params = s.params := rfl

/-! ### storeMem -/

@[simp] theorem State.storeMem_x (s : State) (a : Word) (n : Nat) (v : Word) : (s.storeMem a n v).x = s.x := rfl
@[simp] theorem State.storeMem_pc (s : State) (a : Word) (n : Nat) (v : Word) : (s.storeMem a n v).pc = s.pc := rfl
@[simp] theorem State.storeMem_flags (s : State) (a : Word) (n : Nat) (v : Word) : (s.storeMem a n v).flags = s.flags := rfl
@[simp] theorem State.storeMem_d (s : State) (a : Word) (n : Nat) (v : Word) : (s.storeMem a n v).d = s.d := rfl
@[simp] theorem State.storeMem_esr (s : State) (a : Word) (n : Nat) (v : Word) : (s.storeMem a n v).esr = s.esr := rfl
@[simp] theorem State.storeMem_mem (s : State) (a : Word) (n : Nat) (v : Word) : (s.storeMem a n v).mem = s.mem.store s.params.byteOrder a n v := rfl
@[simp] theorem State.storeMem_monitor (s : State) (a : Word) (n : Nat) (v : Word) : (s.storeMem a n v).monitor = s.monitor := rfl
@[simp] theorem State.storeMem_faultRecord (s : State) (a : Word) (n : Nat) (v : Word) : (s.storeMem a n v).faultRecord = s.faultRecord := rfl
@[simp] theorem State.storeMem_draws (s : State) (a : Word) (n : Nat) (v : Word) : (s.storeMem a n v).draws = s.draws := rfl
@[simp] theorem State.storeMem_params (s : State) (a : Word) (n : Nat) (v : Word) : (s.storeMem a n v).params = s.params := rfl

/-! ### writeD -/

@[simp] theorem State.writeD_x (s : State) (i : Reg) (v : Word) : (s.writeD i v).x = s.x := rfl
@[simp] theorem State.writeD_pc (s : State) (i : Reg) (v : Word) : (s.writeD i v).pc = s.pc := rfl
@[simp] theorem State.writeD_flags (s : State) (i : Reg) (v : Word) : (s.writeD i v).flags = s.flags := rfl
@[simp] theorem State.writeD_esr (s : State) (i : Reg) (v : Word) : (s.writeD i v).esr = s.esr := rfl
@[simp] theorem State.writeD_mem (s : State) (i : Reg) (v : Word) : (s.writeD i v).mem = s.mem := rfl
@[simp] theorem State.writeD_monitor (s : State) (i : Reg) (v : Word) : (s.writeD i v).monitor = s.monitor := rfl
@[simp] theorem State.writeD_faultRecord (s : State) (i : Reg) (v : Word) : (s.writeD i v).faultRecord = s.faultRecord := rfl
@[simp] theorem State.writeD_draws (s : State) (i : Reg) (v : Word) : (s.writeD i v).draws = s.draws := rfl
@[simp] theorem State.writeD_params (s : State) (i : Reg) (v : Word) : (s.writeD i v).params = s.params := rfl

/-! ### draw -/

@[simp] theorem State.draw_x (s : State) : (s.draw.2).x = s.x := rfl
@[simp] theorem State.draw_pc (s : State) : (s.draw.2).pc = s.pc := rfl
@[simp] theorem State.draw_flags (s : State) : (s.draw.2).flags = s.flags := rfl
@[simp] theorem State.draw_d (s : State) : (s.draw.2).d = s.d := rfl
@[simp] theorem State.draw_esr (s : State) : (s.draw.2).esr = s.esr := rfl
@[simp] theorem State.draw_mem (s : State) : (s.draw.2).mem = s.mem := rfl
@[simp] theorem State.draw_monitor (s : State) : (s.draw.2).monitor = s.monitor := rfl
@[simp] theorem State.draw_faultRecord (s : State) : (s.draw.2).faultRecord = s.faultRecord := rfl
@[simp] theorem State.draw_draws (s : State) : (s.draw.2).draws = s.draws + 1 := rfl
@[simp] theorem State.draw_params (s : State) : (s.draw.2).params = s.params := rfl

/-! ### writeS -/

@[simp] theorem State.writeS_x (s : State) (i : Reg) (v : Word32) : (s.writeS i v).x = s.x := rfl
@[simp] theorem State.writeS_pc (s : State) (i : Reg) (v : Word32) : (s.writeS i v).pc = s.pc := rfl
@[simp] theorem State.writeS_flags (s : State) (i : Reg) (v : Word32) : (s.writeS i v).flags = s.flags := rfl
@[simp] theorem State.writeS_esr (s : State) (i : Reg) (v : Word32) : (s.writeS i v).esr = s.esr := rfl
@[simp] theorem State.writeS_mem (s : State) (i : Reg) (v : Word32) : (s.writeS i v).mem = s.mem := rfl
@[simp] theorem State.writeS_monitor (s : State) (i : Reg) (v : Word32) : (s.writeS i v).monitor = s.monitor := rfl
@[simp] theorem State.writeS_faultRecord (s : State) (i : Reg) (v : Word32) : (s.writeS i v).faultRecord = s.faultRecord := rfl
@[simp] theorem State.writeS_draws (s : State) (i : Reg) (v : Word32) : (s.writeS i v).draws = s.draws + 1 := rfl
@[simp] theorem State.writeS_params (s : State) (i : Reg) (v : Word32) : (s.writeS i v).params = s.params := rfl

/-! ### takeException -/

@[simp] theorem State.takeException_x (s : State) (e : Exc) : (s.takeException e).x = s.x := rfl
@[simp] theorem State.takeException_pc (s : State) (e : Exc) : (s.takeException e).pc = s.pc := rfl
@[simp] theorem State.takeException_flags (s : State) (e : Exc) : (s.takeException e).flags = s.flags := rfl
@[simp] theorem State.takeException_d (s : State) (e : Exc) : (s.takeException e).d = s.d := rfl
@[simp] theorem State.takeException_esr (s : State) (e : Exc) : (s.takeException e).esr = esrOf e.cls ((Config.draw s.draws).setWidth 25) := rfl
@[simp] theorem State.takeException_mem (s : State) (e : Exc) : (s.takeException e).mem = s.mem := rfl
@[simp] theorem State.takeException_monitor (s : State) (e : Exc) : (s.takeException e).monitor = none := rfl
@[simp] theorem State.takeException_faultRecord (s : State) (e : Exc) : (s.takeException e).faultRecord = some ⟨e.cls, s.pc, e.info⟩ := rfl
@[simp] theorem State.takeException_draws (s : State) (e : Exc) : (s.takeException e).draws = s.draws + 1 := rfl
@[simp] theorem State.takeException_params (s : State) (e : Exc) : (s.takeException e).params = s.params := rfl

/-! ### writeX -/

@[simp] theorem State.writeX_pc (s : State) (r : Reg) (v : Word) : (s.writeX r v).pc = s.pc := by
  unfold State.writeX; split <;> rfl
@[simp] theorem State.writeX_flags (s : State) (r : Reg) (v : Word) : (s.writeX r v).flags = s.flags := by
  unfold State.writeX; split <;> rfl
@[simp] theorem State.writeX_d (s : State) (r : Reg) (v : Word) : (s.writeX r v).d = s.d := by
  unfold State.writeX; split <;> rfl
@[simp] theorem State.writeX_esr (s : State) (r : Reg) (v : Word) : (s.writeX r v).esr = s.esr := by
  unfold State.writeX; split <;> rfl
@[simp] theorem State.writeX_mem (s : State) (r : Reg) (v : Word) : (s.writeX r v).mem = s.mem := by
  unfold State.writeX; split <;> rfl
@[simp] theorem State.writeX_monitor (s : State) (r : Reg) (v : Word) : (s.writeX r v).monitor = s.monitor := by
  unfold State.writeX; split <;> rfl
@[simp] theorem State.writeX_faultRecord (s : State) (r : Reg) (v : Word) : (s.writeX r v).faultRecord = s.faultRecord := by
  unfold State.writeX; split <;> rfl
@[simp] theorem State.writeX_draws (s : State) (r : Reg) (v : Word) : (s.writeX r v).draws = s.draws := by
  unfold State.writeX; split <;> rfl
@[simp] theorem State.writeX_params (s : State) (r : Reg) (v : Word) : (s.writeX r v).params = s.params := by
  unfold State.writeX; split <;> rfl

/-- The free word a draw answers. -/
@[simp] theorem State.draw_fst (s : State) : s.draw.1 = Config.draw s.draws := rfl

end Sys2Proof.Machine
end

