-- ==== Sys2Proof/Laws/Registers.lean ====
section
/-! SUPPORT. Reading the registers after an update. -/

namespace Sys2Proof.Machine

/-! ## General registers -/

theorem State.readX_congr {s t : State} (h : t.x = s.x) (r : Reg) : t.readX r = s.readX r := by
  unfold State.readX; rw [h]

/-- x[31] reads 0 (R22). -/
@[simp] theorem State.readX_xzr (s : State) : s.readX 31#5 = 0 := by
  simp [State.readX]

/-- A write to x[31] changes nothing (R22). -/
@[simp] theorem State.writeX_xzr (s : State) (v : Word) : s.writeX 31#5 v = s := by
  simp [State.writeX]

theorem Reg.lt_31_iff (r : Reg) : r.toNat < 31 ↔ r ≠ 31#5 := by
  constructor
  · rintro h rfl; simp at h
  · intro h
    have h1 := r.isLt
    have h2 : r.toNat ≠ 31 := fun e => h (BitVec.eq_of_toNat_eq (by simpa using e))
    omega

/-- All that a register write does, read through readX. -/
theorem State.readX_writeX (s : State) (r q : Reg) (v : Word) :
    (s.writeX r v).readX q = if q = r ∧ q ≠ 31#5 then v else s.readX q := by
  by_cases hq : q = 31#5
  · subst hq; simp
  by_cases hr : r.toNat < 31
  · have hq' := (Reg.lt_31_iff q).2 hq
    by_cases e : q = r
    · subst e; rw [if_pos ⟨rfl, hq⟩]; simp [State.readX, State.writeX, hq']
    · have : r.toNat ≠ q.toNat := fun h => e (BitVec.eq_of_toNat_eq h.symm)
      simp [State.readX, State.writeX, hr, hq', e, Vector.getElem_set_ne _ _ this]
  · have : r = 31#5 := by
      by_contra h; exact hr ((Reg.lt_31_iff r).2 h)
    subst this; simp [hq]

@[simp] theorem State.readX_setPc (s : State) (t : Word) (r : Reg) : (s.setPc t).readX r = s.readX r := rfl
@[simp] theorem State.readX_nextPc (s : State) (r : Reg) : s.nextPc.readX r = s.readX r := rfl
@[simp] theorem State.readX_setFlags (s : State) (f : Flags) (r : Reg) : (s.setFlags f).readX r = s.readX r := rfl
@[simp] theorem State.readX_setMonitor (s : State) (m : Option Word) (r : Reg) :
    (s.setMonitor m).readX r = s.readX r := rfl
@[simp] theorem State.readX_storeMem (s : State) (a : Word) (n : Nat) (v : Word) (r : Reg) :
    (s.storeMem a n v).readX r = s.readX r := rfl
@[simp] theorem State.readX_writeD (s : State) (i : Reg) (v : Word) (r : Reg) :
    (s.writeD i v).readX r = s.readX r := rfl
@[simp] theorem State.readX_writeS (s : State) (i : Reg) (v : Word32) (r : Reg) :
    (s.writeS i v).readX r = s.readX r := rfl
@[simp] theorem State.readX_draw (s : State) (r : Reg) : s.draw.2.readX r = s.readX r := rfl
@[simp] theorem State.readX_takeException (s : State) (e : Exc) (r : Reg) :
    (s.takeException e).readX r = s.readX r := rfl

/-! ## Floating-point registers -/

theorem State.readD_congr {s t : State} (h : t.d = s.d) (i : Reg) : t.readD i = s.readD i := by
  unfold State.readD; simp [h]

/-- All that a double write does, read through readD (R33). -/
theorem State.readD_writeD (s : State) (i j : Reg) (v : Word) :
    (s.writeD i v).readD j = if j = i then v else s.readD j := by
  by_cases e : j = i
  · subst e; simp [State.readD, State.writeD]
  · have : i.toNat ≠ j.toNat := fun h => e (BitVec.eq_of_toNat_eq h.symm)
    simp [State.readD, State.writeD, e, Vector.getElem_set_ne _ _ this]

/-- All that a single write does to the file: the low half is the value, the high half is free (R33). -/
theorem State.readD_writeS (s : State) (i j : Reg) (v : Word32) :
    (s.writeS i v).readD j =
      if j = i then joinHalves ((Config.draw s.draws).extractLsb' 32 32) v else s.readD j := by
  simp only [State.writeS, State.readD_writeD, State.draw_fst]
  split <;> rfl

/-- The low half of two joined halves. -/
@[simp] theorem joinHalves_low (hi lo : Word32) : (joinHalves hi lo).setWidth 32 = lo := by
  have h : ((hi ++ lo : BitVec (32 + 32)).setWidth 32) = lo := by
    apply BitVec.eq_of_getLsbD_eq
    intro j hj
    rw [BitVec.getLsbD_setWidth, BitVec.getLsbD_append]
    simp [hj]
  exact h

/-- A single write read back as a single (R33). -/
theorem State.readS_writeS_self (s : State) (i : Reg) (v : Word32) : (s.writeS i v).readS i = v := by
  simp [State.readS, State.readD_writeS]

theorem State.readS_eq (s : State) (i : Reg) : s.readS i = (s.readD i).setWidth 32 := rfl

@[simp] theorem State.readD_writeX (s : State) (r : Reg) (v : Word) (i : Reg) :
    (s.writeX r v).readD i = s.readD i := State.readD_congr (by simp) i
@[simp] theorem State.readD_setPc (s : State) (t : Word) (i : Reg) : (s.setPc t).readD i = s.readD i := rfl
@[simp] theorem State.readD_nextPc (s : State) (i : Reg) : s.nextPc.readD i = s.readD i := rfl
@[simp] theorem State.readD_setFlags (s : State) (f : Flags) (i : Reg) : (s.setFlags f).readD i = s.readD i := rfl
@[simp] theorem State.readD_setMonitor (s : State) (m : Option Word) (i : Reg) :
    (s.setMonitor m).readD i = s.readD i := rfl
@[simp] theorem State.readD_storeMem (s : State) (a : Word) (n : Nat) (v : Word) (i : Reg) :
    (s.storeMem a n v).readD i = s.readD i := rfl
@[simp] theorem State.readD_draw (s : State) (i : Reg) : s.draw.2.readD i = s.readD i := rfl
@[simp] theorem State.readD_takeException (s : State) (e : Exc) (i : Reg) :
    (s.takeException e).readD i = s.readD i := rfl

end Sys2Proof.Machine
end

