-- ==== Sys2Proof/Laws/Operations.lean ====
section
/-! SUPPORT. What each shared operation can do, said once: a proof about a meaning cites these and unfolds no operation. -/

namespace Sys2Proof.Machine

/-! ## Ends of a meaning -/

@[simp] theorem State.finish_eq (s : State) : s.finish = .next s.nextPc := rfl

@[simp] theorem State.finishX_eq (s : State) (rd : Reg) (v : Word) :
    s.finishX rd v = .next (s.writeX rd v).nextPc := rfl

@[simp] theorem State.finishXFlags_eq (s : State) (rd : Reg) (r : Word × Flags) :
    s.finishXFlags rd r = .next ((s.writeX rd r.1).setFlags r.2).nextPc := rfl

@[simp] theorem State.raise_eq (s : State) (e : Exc) : s.raise e = .next (s.takeException e) := rfl

/-- A branch answers the state at its target or at the next instruction. -/
theorem State.branchIf_eq (s : State) (taken : Bool) (offset : Word) :
    s.branchIf taken offset = .next (s.setPc (if taken then s.pc + offset else s.pc + 4)) := by
  cases taken <;> rfl

/-- A floating-point instruction runs, or takes class 7. -/
theorem State.withFp_cases (s : State) (run : Result) :
    (s.params.fpEnabled = true ∧ s.withFp run = run) ∨
      (s.params.fpEnabled = false ∧ s.withFp run = .next (s.takeException .simdDisabled)) := by
  cases h : s.params.fpEnabled <;> simp [State.withFp, h]

/-! ## Free values -/

/-- A parameter resolves to its fixed value, the state unchanged, or to a free value, the state having taken it. -/
theorem State.resolve_cases {α : Type} (s : State) (c : Choice α) (f : Word → α) :
    (∃ v, c = .fixed v ∧ s.resolve c f = (v, s)) ∨
      (c = .draw ∧ s.resolve c f = (f (Config.draw s.draws), s.draw.2)) := by
  cases c with
  | fixed v => exact .inl ⟨v, rfl, rfl⟩
  | draw => exact .inr ⟨rfl, rfl⟩

/-- Whatever a parameter resolves to, the state keeps everything but its count of free values. -/
theorem State.resolve_state {α : Type} (s : State) (c : Choice α) (f : Word → α) :
    (s.resolve c f).2 = s ∨ (s.resolve c f).2 = s.draw.2 := by
  cases c <;> simp [State.resolve]

/-- STXR's spurious failure: false with the state unchanged, or free. -/
theorem State.spurious_cases (s : State) :
    (s.params.stxrSpurious = false ∧ s.spurious = (false, s)) ∨
      (s.params.stxrSpurious = true ∧ s.spurious = ((Config.draw s.draws).getLsbD 0, s.draw.2)) := by
  cases h : s.params.stxrSpurious <;> simp [State.spurious, h]

/-! ## Accesses -/

theorem allMapped_iff (p : Params) (n : Nat) : ∀ addr : Word,
    allMapped p addr n = true ↔ ∀ j, j < n → mapped p (addr + BitVec.ofNat 64 j) = true := by
  induction n with
  | zero => intro addr; simp [allMapped]
  | succ n ih =>
    intro addr
    simp only [allMapped, Bool.and_eq_true, ih]
    constructor
    · rintro ⟨h0, h⟩ j hj
      cases j with
      | zero => simpa using h0
      | succ j =>
        have := h j (by omega)
        rwa [BitVec.add_assoc, show (1 : Word) + BitVec.ofNat 64 j = BitVec.ofNat 64 (j + 1) by
          rw [Nat.add_comm, BitVec.ofNat_add]; rfl] at this
    · intro h
      refine ⟨by simpa using h 0 (by omega), fun j hj => ?_⟩
      have := h (j + 1) (by omega)
      rwa [BitVec.add_assoc, show (1 : Word) + BitVec.ofNat 64 j = BitVec.ofNat 64 (j + 1) by
        rw [Nat.add_comm, BitVec.ofNat_add]; rfl]

/-- The checks of an access are the conditions of R54 and R59. -/
theorem accessOk_iff (p : Params) (exclusive : Bool) (addr : Word) (n : Nat) :
    accessOk p exclusive addr n = true ↔ AccessAllowed p exclusive addr n := by
  simp [accessOk, alignmentOk, aligned, AccessAllowed, allMapped_iff]

/-- A load goes on with the value or takes a Data Abort. -/
theorem State.loadThen_cases (s : State) (exclusive : Bool) (addr : Word) (n : Nat) (use : Word → State) :
    (AccessAllowed s.params exclusive addr n ∧
        s.loadThen exclusive addr n use = .next (use (s.mem.load s.params.byteOrder addr n)).nextPc) ∨
      (¬ AccessAllowed s.params exclusive addr n ∧
        s.loadThen exclusive addr n use = .next (s.takeException (.dataAbort addr))) := by
  by_cases h : accessOk s.params exclusive addr n = true
  · exact .inl ⟨(accessOk_iff ..).1 h, by simp [State.loadThen, h]⟩
  · exact .inr ⟨fun h' => h ((accessOk_iff ..).2 h'), by simp [State.loadThen, h]⟩

/-- A store stores or takes a Data Abort. -/
theorem State.storeThen_cases (s : State) (addr : Word) (n : Nat) (v : Word) :
    (AccessAllowed s.params false addr n ∧ s.storeThen addr n v = .next (s.storeMem addr n v).nextPc) ∨
      (¬ AccessAllowed s.params false addr n ∧ s.storeThen addr n v = .next (s.takeException (.dataAbort addr))) := by
  by_cases h : accessOk s.params false addr n = true
  · exact .inl ⟨(accessOk_iff ..).1 h, by simp [State.storeThen, h]⟩
  · exact .inr ⟨fun h' => h ((accessOk_iff ..).2 h'), by simp [State.storeThen, h]⟩

/-- The store a memory update makes keeps memory's form. -/
theorem State.wf_storeMem {s : State} (h : s.mem.wf) (addr : Word) (n : Nat) (v : Word) :
    (s.storeMem addr n v).mem.wf := Memory.wf_store h ..

/-! ## Floating point -/

/-- A NaN result is a pattern of the policy, the state unchanged or having taken a free value. -/
theorem nanResult32_state (policy : NanPolicy) (s : State) :
    (nanResult32 policy s).2 = s ∨ (nanResult32 policy s).2 = s.draw.2 := by
  cases policy <;> simp [nanResult32]

theorem nanResult64_state (policy : NanPolicy) (s : State) :
    (nanResult64 policy s).2 = s ∨ (nanResult64 policy s).2 = s.draw.2 := by
  cases policy <;> simp [nanResult64]

/-- An arithmetic result leaves the state alone, but for its count of free values. -/
theorem fpArith32_state (op : FpOp) (a b : Word32) (s : State) :
    (fpArith32 op a b s).2 = s ∨ (fpArith32 op a b s).2 = s.draw.2 := by
  unfold fpArith32
  split
  · exact .inl rfl
  · split
    · exact .inl rfl
    · exact nanResult32_state ..

theorem fpArith64_state (op : FpOp) (a b : Word) (s : State) :
    (fpArith64 op a b s).2 = s ∨ (fpArith64 op a b s).2 = s.draw.2 := by
  unfold fpArith64
  split
  · exact .inl rfl
  · split
    · exact .inl rfl
    · exact nanResult64_state ..

/-- The flags of a compare leave the state alone, but for its count of free values. -/
theorem fcmpFlags_state (rel : FpRel) (s : State) :
    (fcmpFlags rel s).2 = s ∨ (fcmpFlags rel s).2 = s.draw.2 := by
  unfold fcmpFlags
  split
  · exact .inl rfl
  · exact State.resolve_state ..

/-! ## The exclusive pair -/

/-- Every way an STXR can end. -/
theorem execStxr_cases (rt rm rn : Reg) (s : State) :
    (aligned (s.readX rn) 8 = false ∧ execStxr rt rm rn s = .next (s.takeException (.dataAbort (s.readX rn)))) ∨
      (aligned (s.readX rn) 8 = true ∧ ¬ (s.monitor = some (s.readX rn) ∧ s.spurious.1 = false) ∧
        execStxr rt rm rn s = .next (((s.spurious.2.setMonitor none).writeX rm 1).nextPc)) ∨
      (aligned (s.readX rn) 8 = true ∧ s.monitor = some (s.readX rn) ∧ s.spurious.1 = false ∧
        allMapped s.params (s.readX rn) 8 = true ∧
        execStxr rt rm rn s = .next
          ((((s.spurious.2.storeMem (s.readX rn) 8 (s.readX rt)).setMonitor none).writeX rm 0).nextPc)) ∨
      (aligned (s.readX rn) 8 = true ∧ s.monitor = some (s.readX rn) ∧ s.spurious.1 = false ∧
        allMapped s.params (s.readX rn) 8 = false ∧
        execStxr rt rm rn s = .next (s.spurious.2.takeException (.dataAbort (s.readX rn)))) := by
  unfold execStxr
  by_cases h1 : aligned (s.readX rn) 8 = true
  · by_cases h2 : s.monitor = some (s.readX rn) ∧ s.spurious.1 = false
    · by_cases h3 : allMapped s.params (s.readX rn) 8 = true
      · exact .inr (.inr (.inl ⟨h1, h2.1, h2.2, h3, by simp [h1, h2, h3, finishStxr]⟩))
      · exact .inr (.inr (.inr ⟨h1, h2.1, h2.2, by simpa using h3, by simp [h1, h2, h3]⟩))
    · exact .inr (.inl ⟨h1, h2, by simp only [h1, if_neg h2]; simp [finishStxr]⟩)
  · exact .inl ⟨by simpa using h1, by simp [h1]⟩

/-! ## The fetch -/

/-- Every way a fetch can end (R60). -/
theorem fetch_cases (p : Params) (pc : Word) :
    (pc.toNat % 4 ≠ 0 ∧ fetch p pc = .raises (.misalignedPc pc)) ∨
      (pc.toNat % 4 = 0 ∧ pc = exitPc p ∧ fetch p pc = .ended) ∨
      (pc.toNat % 4 = 0 ∧ pc ≠ exitPc p ∧ fetch p pc = .raises (.instructionAbort pc)) ∨
      (pc.toNat % 4 = 0 ∧ pc ≠ exitPc p ∧ ∃ w, fetch p pc = .word w) := by
  unfold fetch
  by_cases h1 : pc.toNat % 4 ≠ 0
  · exact .inl ⟨h1, by simp [h1]⟩
  · have h1' : pc.toNat % 4 = 0 := by omega
    by_cases h2 : pc = exitPc p
    · exact .inr (.inl ⟨h1', h2, by rw [if_neg h1, if_pos h2]⟩)
    · by_cases h3 : pc.toNat < p.textBase.toNat
      · exact .inr (.inr (.inl ⟨h1', h2, by rw [if_neg h1, if_neg h2, if_pos h3]⟩))
      · rw [if_neg h1, if_neg h2, if_neg h3]
        cases h4 : p.text[(pc.toNat - p.textBase.toNat) / 4]? with
        | none => exact .inr (.inr (.inl ⟨h1', h2, rfl⟩))
        | some w => exact .inr (.inr (.inr ⟨h1', h2, w, rfl⟩))

end Sys2Proof.Machine
end

