-- ==== Sys2Proof/Laws/PerInstr.lean ====
section
/-! SUPPORT. One lemma per instruction: its word is that of a row of the opcode table, and the row builds the instruction
back from it (30_encoding.md R97, R100). -/

namespace Sys2Proof.Laws

/-- Some row of the opcode table matches the word of `i` and reads `i` from it. -/
def RowOf.Statement (i : Instr) : Prop :=
  ∃ r ∈ opcodeTable, encode i &&& r.mask = r.bits ∧ r.build (encode i) = i

/-- By the number of the row. -/
theorem rowOf_intro {i : Instr} (k : Nat) {r : OpcodeRow} (h : opcodeTable[k]? = some r)
    (hm : encode i &&& r.mask = r.bits) (hb : r.build (encode i) = i) : RowOf.Statement i :=
  ⟨r, List.mem_of_getElem? h, hm, hb⟩

theorem RowOf.b (br : BitVec 26) : RowOf.Statement (.b br) :=
  rowOf_intro 0 rfl ((encodeB_and_op _ _).trans (by decide)) (by simp [encode])

theorem RowOf.fmuls (rd : Reg) (rn : Reg) (rm : Reg) : RowOf.Statement (.fmuls rd rn rm) :=
  rowOf_intro 1 rfl ((encodeR_and_op_shamt _ _ _ _ _).trans (by decide)) (by simp [encode])

theorem RowOf.fdivs (rd : Reg) (rn : Reg) (rm : Reg) : RowOf.Statement (.fdivs rd rn rm) :=
  rowOf_intro 2 rfl ((encodeR_and_op_shamt _ _ _ _ _).trans (by decide)) (by simp [encode])

theorem RowOf.fcmps (rn : Reg) (rm : Reg) : RowOf.Statement (.fcmps rn rm) :=
  rowOf_intro 3 rfl ((encodeR_and_op_shamt _ _ _ _ _).trans (by decide)) (by simp [encode])

theorem RowOf.fadds (rd : Reg) (rn : Reg) (rm : Reg) : RowOf.Statement (.fadds rd rn rm) :=
  rowOf_intro 4 rfl ((encodeR_and_op_shamt _ _ _ _ _).trans (by decide)) (by simp [encode])

theorem RowOf.fsubs (rd : Reg) (rn : Reg) (rm : Reg) : RowOf.Statement (.fsubs rd rn rm) :=
  rowOf_intro 5 rfl ((encodeR_and_op_shamt _ _ _ _ _).trans (by decide)) (by simp [encode])

theorem RowOf.fmuld (rd : Reg) (rn : Reg) (rm : Reg) : RowOf.Statement (.fmuld rd rn rm) :=
  rowOf_intro 6 rfl ((encodeR_and_op_shamt _ _ _ _ _).trans (by decide)) (by simp [encode])

theorem RowOf.fdivd (rd : Reg) (rn : Reg) (rm : Reg) : RowOf.Statement (.fdivd rd rn rm) :=
  rowOf_intro 7 rfl ((encodeR_and_op_shamt _ _ _ _ _).trans (by decide)) (by simp [encode])

theorem RowOf.fcmpd (rn : Reg) (rm : Reg) : RowOf.Statement (.fcmpd rn rm) :=
  rowOf_intro 8 rfl ((encodeR_and_op_shamt _ _ _ _ _).trans (by decide)) (by simp [encode])

theorem RowOf.faddd (rd : Reg) (rn : Reg) (rm : Reg) : RowOf.Statement (.faddd rd rn rm) :=
  rowOf_intro 9 rfl ((encodeR_and_op_shamt _ _ _ _ _).trans (by decide)) (by simp [encode])

theorem RowOf.fsubd (rd : Reg) (rn : Reg) (rm : Reg) : RowOf.Statement (.fsubd rd rn rm) :=
  rowOf_intro 10 rfl ((encodeR_and_op_shamt _ _ _ _ _).trans (by decide)) (by simp [encode])

theorem RowOf.sturb (rt : Reg) (rn : Reg) (addr : BitVec 9) : RowOf.Statement (.sturb rt rn addr) :=
  rowOf_intro 11 rfl ((encodeD_and_op _ _ _ _).trans (by decide)) (by simp [encode])

theorem RowOf.ldurb (rt : Reg) (rn : Reg) (addr : BitVec 9) : RowOf.Statement (.ldurb rt rn addr) :=
  rowOf_intro 12 rfl ((encodeD_and_op _ _ _ _).trans (by decide)) (by simp [encode])

theorem RowOf.bEq (cbr : BitVec 19) : RowOf.Statement (.bEq cbr) :=
  rowOf_intro 13 rfl ((encodeCB_and_op_rt _ _ _).trans (by decide)) (by simp [encode])

theorem RowOf.bNe (cbr : BitVec 19) : RowOf.Statement (.bNe cbr) :=
  rowOf_intro 14 rfl ((encodeCB_and_op_rt _ _ _).trans (by decide)) (by simp [encode])

theorem RowOf.bHs (cbr : BitVec 19) : RowOf.Statement (.bHs cbr) :=
  rowOf_intro 15 rfl ((encodeCB_and_op_rt _ _ _).trans (by decide)) (by simp [encode])

theorem RowOf.bLo (cbr : BitVec 19) : RowOf.Statement (.bLo cbr) :=
  rowOf_intro 16 rfl ((encodeCB_and_op_rt _ _ _).trans (by decide)) (by simp [encode])

theorem RowOf.bMi (cbr : BitVec 19) : RowOf.Statement (.bMi cbr) :=
  rowOf_intro 17 rfl ((encodeCB_and_op_rt _ _ _).trans (by decide)) (by simp [encode])

theorem RowOf.bPl (cbr : BitVec 19) : RowOf.Statement (.bPl cbr) :=
  rowOf_intro 18 rfl ((encodeCB_and_op_rt _ _ _).trans (by decide)) (by simp [encode])

theorem RowOf.bVs (cbr : BitVec 19) : RowOf.Statement (.bVs cbr) :=
  rowOf_intro 19 rfl ((encodeCB_and_op_rt _ _ _).trans (by decide)) (by simp [encode])

theorem RowOf.bVc (cbr : BitVec 19) : RowOf.Statement (.bVc cbr) :=
  rowOf_intro 20 rfl ((encodeCB_and_op_rt _ _ _).trans (by decide)) (by simp [encode])

theorem RowOf.bHi (cbr : BitVec 19) : RowOf.Statement (.bHi cbr) :=
  rowOf_intro 21 rfl ((encodeCB_and_op_rt _ _ _).trans (by decide)) (by simp [encode])

theorem RowOf.bLs (cbr : BitVec 19) : RowOf.Statement (.bLs cbr) :=
  rowOf_intro 22 rfl ((encodeCB_and_op_rt _ _ _).trans (by decide)) (by simp [encode])

theorem RowOf.bGe (cbr : BitVec 19) : RowOf.Statement (.bGe cbr) :=
  rowOf_intro 23 rfl ((encodeCB_and_op_rt _ _ _).trans (by decide)) (by simp [encode])

theorem RowOf.bLt (cbr : BitVec 19) : RowOf.Statement (.bLt cbr) :=
  rowOf_intro 24 rfl ((encodeCB_and_op_rt _ _ _).trans (by decide)) (by simp [encode])

theorem RowOf.bGt (cbr : BitVec 19) : RowOf.Statement (.bGt cbr) :=
  rowOf_intro 25 rfl ((encodeCB_and_op_rt _ _ _).trans (by decide)) (by simp [encode])

theorem RowOf.bLe (cbr : BitVec 19) : RowOf.Statement (.bLe cbr) :=
  rowOf_intro 26 rfl ((encodeCB_and_op_rt _ _ _).trans (by decide)) (by simp [encode])

theorem RowOf.sturh (rt : Reg) (rn : Reg) (addr : BitVec 9) : RowOf.Statement (.sturh rt rn addr) :=
  rowOf_intro 27 rfl ((encodeD_and_op _ _ _ _).trans (by decide)) (by simp [encode])

theorem RowOf.ldurh (rt : Reg) (rn : Reg) (addr : BitVec 9) : RowOf.Statement (.ldurh rt rn addr) :=
  rowOf_intro 28 rfl ((encodeD_and_op _ _ _ _).trans (by decide)) (by simp [encode])

theorem RowOf.and (rd : Reg) (rn : Reg) (rm : Reg) : RowOf.Statement (.and rd rn rm) :=
  rowOf_intro 29 rfl ((encodeR_and_op _ _ _ _ _).trans (by decide)) (by simp [encode])

theorem RowOf.add (rd : Reg) (rn : Reg) (rm : Reg) : RowOf.Statement (.add rd rn rm) :=
  rowOf_intro 30 rfl ((encodeR_and_op _ _ _ _ _).trans (by decide)) (by simp [encode])

theorem RowOf.addi (rd : Reg) (rn : Reg) (imm : BitVec 12) : RowOf.Statement (.addi rd rn imm) :=
  rowOf_intro 31 rfl ((encodeI_and_op _ _ _ _).trans (by decide)) (by simp [encode])

theorem RowOf.andi (rd : Reg) (rn : Reg) (imm : BitVec 12) : RowOf.Statement (.andi rd rn imm) :=
  rowOf_intro 32 rfl ((encodeI_and_op _ _ _ _).trans (by decide)) (by simp [encode])

theorem RowOf.bl (br : BitVec 26) : RowOf.Statement (.bl br) :=
  rowOf_intro 33 rfl ((encodeB_and_op _ _).trans (by decide)) (by simp [encode])

theorem RowOf.sdiv (rd : Reg) (rn : Reg) (rm : Reg) : RowOf.Statement (.sdiv rd rn rm) :=
  rowOf_intro 34 rfl ((encodeR_and_op_shamt _ _ _ _ _).trans (by decide)) (by simp [encode])

theorem RowOf.udiv (rd : Reg) (rn : Reg) (rm : Reg) : RowOf.Statement (.udiv rd rn rm) :=
  rowOf_intro 35 rfl ((encodeR_and_op_shamt _ _ _ _ _).trans (by decide)) (by simp [encode])

theorem RowOf.mul (rd : Reg) (rn : Reg) (rm : Reg) : RowOf.Statement (.mul rd rn rm) :=
  rowOf_intro 36 rfl ((encodeR_and_op_shamt _ _ _ _ _).trans (by decide)) (by simp [encode])

theorem RowOf.smulh (rd : Reg) (rn : Reg) (rm : Reg) : RowOf.Statement (.smulh rd rn rm) :=
  rowOf_intro 37 rfl ((encodeR_and_op _ _ _ _ _).trans (by decide)) (by simp [encode])

theorem RowOf.umulh (rd : Reg) (rn : Reg) (rm : Reg) : RowOf.Statement (.umulh rd rn rm) :=
  rowOf_intro 38 rfl ((encodeR_and_op _ _ _ _ _).trans (by decide)) (by simp [encode])

theorem RowOf.orr (rd : Reg) (rn : Reg) (rm : Reg) : RowOf.Statement (.orr rd rn rm) :=
  rowOf_intro 39 rfl ((encodeR_and_op _ _ _ _ _).trans (by decide)) (by simp [encode])

theorem RowOf.adds (rd : Reg) (rn : Reg) (rm : Reg) : RowOf.Statement (.adds rd rn rm) :=
  rowOf_intro 40 rfl ((encodeR_and_op _ _ _ _ _).trans (by decide)) (by simp [encode])

theorem RowOf.addis (rd : Reg) (rn : Reg) (imm : BitVec 12) : RowOf.Statement (.addis rd rn imm) :=
  rowOf_intro 41 rfl ((encodeI_and_op _ _ _ _).trans (by decide)) (by simp [encode])

theorem RowOf.orri (rd : Reg) (rn : Reg) (imm : BitVec 12) : RowOf.Statement (.orri rd rn imm) :=
  rowOf_intro 42 rfl ((encodeI_and_op _ _ _ _).trans (by decide)) (by simp [encode])

theorem RowOf.cbz (rt : Reg) (cbr : BitVec 19) : RowOf.Statement (.cbz rt cbr) :=
  rowOf_intro 43 rfl ((encodeCB_and_op _ _ _).trans (by decide)) (by simp [encode])

theorem RowOf.cbnz (rt : Reg) (cbr : BitVec 19) : RowOf.Statement (.cbnz rt cbr) :=
  rowOf_intro 44 rfl ((encodeCB_and_op _ _ _).trans (by decide)) (by simp [encode])

theorem RowOf.sturw (rt : Reg) (rn : Reg) (addr : BitVec 9) : RowOf.Statement (.sturw rt rn addr) :=
  rowOf_intro 45 rfl ((encodeD_and_op _ _ _ _).trans (by decide)) (by simp [encode])

theorem RowOf.ldursw (rt : Reg) (rn : Reg) (addr : BitVec 9) : RowOf.Statement (.ldursw rt rn addr) :=
  rowOf_intro 46 rfl ((encodeD_and_op _ _ _ _).trans (by decide)) (by simp [encode])

theorem RowOf.sturs (rt : Reg) (rn : Reg) (addr : BitVec 9) : RowOf.Statement (.sturs rt rn addr) :=
  rowOf_intro 47 rfl ((encodeD_and_op _ _ _ _).trans (by decide)) (by simp [encode])

theorem RowOf.ldurs (rt : Reg) (rn : Reg) (addr : BitVec 9) : RowOf.Statement (.ldurs rt rn addr) :=
  rowOf_intro 48 rfl ((encodeD_and_op _ _ _ _).trans (by decide)) (by simp [encode])

theorem RowOf.stxr (rt : Reg) (rm : Reg) (rn : Reg) : RowOf.Statement (.stxr rt rm rn) :=
  rowOf_intro 49 rfl ((encodeR_and_op _ _ _ _ _).trans (by decide)) (by simp [encode])

theorem RowOf.ldxr (rt : Reg) (rn : Reg) (addr : BitVec 9) : RowOf.Statement (.ldxr rt rn addr) :=
  rowOf_intro 50 rfl ((encodeD_and_op _ _ _ _).trans (by decide)) (by simp [encode])

theorem RowOf.eor (rd : Reg) (rn : Reg) (rm : Reg) : RowOf.Statement (.eor rd rn rm) :=
  rowOf_intro 51 rfl ((encodeR_and_op _ _ _ _ _).trans (by decide)) (by simp [encode])

theorem RowOf.sub (rd : Reg) (rn : Reg) (rm : Reg) : RowOf.Statement (.sub rd rn rm) :=
  rowOf_intro 52 rfl ((encodeR_and_op _ _ _ _ _).trans (by decide)) (by simp [encode])

theorem RowOf.subi (rd : Reg) (rn : Reg) (imm : BitVec 12) : RowOf.Statement (.subi rd rn imm) :=
  rowOf_intro 53 rfl ((encodeI_and_op _ _ _ _).trans (by decide)) (by simp [encode])

theorem RowOf.eori (rd : Reg) (rn : Reg) (imm : BitVec 12) : RowOf.Statement (.eori rd rn imm) :=
  rowOf_intro 54 rfl ((encodeI_and_op _ _ _ _).trans (by decide)) (by simp [encode])

theorem RowOf.movz (rd : Reg) (mov : BitVec 16) (hw : BitVec 2) : RowOf.Statement (.movz rd mov hw) :=
  rowOf_intro 55 rfl ((encodeIM_and_op _ _ _ _).trans (by decide)) (by simp [encode])

theorem RowOf.lsr (rd : Reg) (rn : Reg) (shamt : BitVec 6) : RowOf.Statement (.lsr rd rn shamt) :=
  rowOf_intro 56 rfl ((encodeR_and_op _ _ _ _ _).trans (by decide)) (by simp [encode])

theorem RowOf.lsl (rd : Reg) (rn : Reg) (shamt : BitVec 6) : RowOf.Statement (.lsl rd rn shamt) :=
  rowOf_intro 57 rfl ((encodeR_and_op _ _ _ _ _).trans (by decide)) (by simp [encode])

theorem RowOf.br (rn : Reg) : RowOf.Statement (.br rn) :=
  rowOf_intro 58 rfl ((encodeR_and_op _ _ _ _ _).trans (by decide)) (by simp [encode])

theorem RowOf.ands (rd : Reg) (rn : Reg) (rm : Reg) : RowOf.Statement (.ands rd rn rm) :=
  rowOf_intro 59 rfl ((encodeR_and_op _ _ _ _ _).trans (by decide)) (by simp [encode])

theorem RowOf.subs (rd : Reg) (rn : Reg) (rm : Reg) : RowOf.Statement (.subs rd rn rm) :=
  rowOf_intro 60 rfl ((encodeR_and_op _ _ _ _ _).trans (by decide)) (by simp [encode])

theorem RowOf.subis (rd : Reg) (rn : Reg) (imm : BitVec 12) : RowOf.Statement (.subis rd rn imm) :=
  rowOf_intro 61 rfl ((encodeI_and_op _ _ _ _).trans (by decide)) (by simp [encode])

theorem RowOf.andis (rd : Reg) (rn : Reg) (imm : BitVec 12) : RowOf.Statement (.andis rd rn imm) :=
  rowOf_intro 62 rfl ((encodeI_and_op _ _ _ _).trans (by decide)) (by simp [encode])

theorem RowOf.movk (rd : Reg) (mov : BitVec 16) (hw : BitVec 2) : RowOf.Statement (.movk rd mov hw) :=
  rowOf_intro 63 rfl ((encodeIM_and_op _ _ _ _).trans (by decide)) (by simp [encode])

theorem RowOf.stur (rt : Reg) (rn : Reg) (addr : BitVec 9) : RowOf.Statement (.stur rt rn addr) :=
  rowOf_intro 64 rfl ((encodeD_and_op _ _ _ _).trans (by decide)) (by simp [encode])

theorem RowOf.ldur (rt : Reg) (rn : Reg) (addr : BitVec 9) : RowOf.Statement (.ldur rt rn addr) :=
  rowOf_intro 65 rfl ((encodeD_and_op _ _ _ _).trans (by decide)) (by simp [encode])

theorem RowOf.sturd (rt : Reg) (rn : Reg) (addr : BitVec 9) : RowOf.Statement (.sturd rt rn addr) :=
  rowOf_intro 66 rfl ((encodeD_and_op _ _ _ _).trans (by decide)) (by simp [encode])

theorem RowOf.ldurd (rt : Reg) (rn : Reg) (addr : BitVec 9) : RowOf.Statement (.ldurd rt rn addr) :=
  rowOf_intro 67 rfl ((encodeD_and_op _ _ _ _).trans (by decide)) (by simp [encode])

end Sys2Proof.Laws
end

