-- ==== Sys2Proof/Tests/Slice0.lean ====
section
/-! SUPPORT. Tests. Words and expected values are those of spec/95_test_vectors.md, worked out there from the rules. Then
one witness for each statement that has hypotheses: a state and operands that meet them. -/

namespace Sys2Proof.Tests

open Sys2Proof Sys2Proof.Machine

/-! ## Decoding: every row, its word written bit by bit (95_test_vectors.md sections 2.1 and 2.2) -/

theorem test_decode_add_subtract :
    decode 0b10001011000_10101_000000_10100_01001 = .ok (.add 9 20 21) ∧
    decode 0b1001000100_000000000001_01001_01001 = .ok (.addi 9 9 1) ∧
    decode 0b1011000100_111111111111_00010_00001 = .ok (.addis 1 2 4095) ∧
    decode 0b10101011000_00010_000000_00001_00000 = .ok (.adds 0 1 2) ∧
    decode 0b11001011000_10101_000000_10100_01001 = .ok (.sub 9 20 21) ∧
    decode 0b1101000100_000000010000_11100_11100 = .ok (.subi 28 28 16) ∧
    decode 0b1111000100_000000000001_01001_01001 = .ok (.subis 9 9 1) ∧
    decode 0b11101011000_00010_000000_00001_11111 = .ok (.subs 31 1 2) := by
  decide

theorem test_decode_logical :
    decode 0b10001010000_00011_000000_00010_00001 = .ok (.and 1 2 3) ∧
    decode 0b1001001000_000011111111_00010_00001 = .ok (.andi 1 2 255) ∧
    decode 0b1111001000_000000000001_00101_11111 = .ok (.andis 31 5 1) ∧
    decode 0b11101010000_00011_000000_00010_00001 = .ok (.ands 1 2 3) ∧
    decode 0b10101010000_00011_000000_00010_00001 = .ok (.orr 1 2 3) ∧
    decode 0b1011001000_000000000001_00010_00001 = .ok (.orri 1 2 1) ∧
    decode 0b11001010000_00011_000000_00010_00001 = .ok (.eor 1 2 3) ∧
    decode 0b1101001000_111111111111_00010_00001 = .ok (.eori 1 2 4095) := by
  decide

theorem test_decode_shift_and_move :
    decode 0b11010011011_00000_000100_00010_00001 = .ok (.lsl 1 2 4) ∧
    decode 0b11010011010_00000_111111_00010_00001 = .ok (.lsr 1 2 63) ∧
    decode 0b111100101_00_1111111111111111_01001 = .ok (.movk 9 0xFFFF 0) ∧
    decode 0b110100101_01_0001001000110100_01001 = .ok (.movz 9 0x1234 1) := by
  decide

theorem test_decode_branch :
    decode 0b000101_00000000000000000000000010 = .ok (.b 2) ∧
    decode 0b000101_11111111111111111111111111 = .ok (.b 0x3FFFFFF) ∧
    decode 0b100101_00000000000000000001000000 = .ok (.bl 0x40) ∧
    decode 0b11010110000_00000_000000_11110_00000 = .ok (.br 30) ∧
    decode 0b10110101_1111111111111111110_01001 = .ok (.cbnz 9 0x7FFFE) ∧
    decode 0b10110100_0000000000000000011_00001 = .ok (.cbz 1 3) := by
  decide

theorem test_decode_b_cond :
    decode 0b01010100_0000000000000000010_00000 = .ok (.bEq 2) ∧
    decode 0b01010100_0000000000000000010_00001 = .ok (.bNe 2) ∧
    decode 0b01010100_0000000000000000010_00010 = .ok (.bHs 2) ∧
    decode 0b01010100_0000000000000000010_00011 = .ok (.bLo 2) ∧
    decode 0b01010100_0000000000000000010_00100 = .ok (.bMi 2) ∧
    decode 0b01010100_0000000000000000010_00101 = .ok (.bPl 2) ∧
    decode 0b01010100_0000000000000000010_00110 = .ok (.bVs 2) ∧
    decode 0b01010100_0000000000000000010_00111 = .ok (.bVc 2) ∧
    decode 0b01010100_0000000000000000010_01000 = .ok (.bHi 2) ∧
    decode 0b01010100_0000000000000000010_01001 = .ok (.bLs 2) ∧
    decode 0b01010100_0000000000000000010_01010 = .ok (.bGe 2) ∧
    decode 0b01010100_0000000000000000010_01011 = .ok (.bLt 2) ∧
    decode 0b01010100_0000000000000000010_01100 = .ok (.bGt 2) ∧
    decode 0b01010100_0000000000000000010_01101 = .ok (.bLe 2) := by
  decide

theorem test_decode_load_store :
    decode 0b11111000010_000001000_00_00010_00001 = .ok (.ldur 1 2 8) ∧
    decode 0b00111000010_111111111_00_00010_00001 = .ok (.ldurb 1 2 0x1FF) ∧
    decode 0b01111000010_000000010_00_00010_00001 = .ok (.ldurh 1 2 2) ∧
    decode 0b10111000100_000000100_00_00010_00001 = .ok (.ldursw 1 2 4) ∧
    decode 0b11111000000_111111000_00_11100_00001 = .ok (.stur 1 28 0x1F8) ∧
    decode 0b00111000000_011111111_00_00010_00001 = .ok (.sturb 1 2 0xFF) ∧
    decode 0b01111000000_100000000_00_00010_00001 = .ok (.sturh 1 2 0x100) ∧
    decode 0b10111000000_000000100_00_00010_00001 = .ok (.sturw 1 2 4) ∧
    decode 0b11001000010_000001000_00_10100_01010 = .ok (.ldxr 10 20 8) ∧
    decode 0b11001000000_01001_000000_10100_10111 = .ok (.stxr 23 9 20) := by
  decide

theorem test_decode_multiply_divide :
    decode 0b10011011000_00011_011111_00010_00001 = .ok (.mul 1 2 3) ∧
    decode 0b10011011010_00011_000000_00010_00001 = .ok (.smulh 1 2 3) ∧
    decode 0b10011011110_00011_000000_00010_00001 = .ok (.umulh 1 2 3) ∧
    decode 0b10011010110_00011_000010_00010_00001 = .ok (.sdiv 1 2 3) ∧
    decode 0b10011010110_00011_000011_00010_00001 = .ok (.udiv 1 2 3) := by
  decide

theorem test_decode_single :
    decode 0b00011110001_00011_001010_00010_00001 = .ok (.fadds 1 2 3) ∧
    decode 0b00011110001_00011_001110_00010_00001 = .ok (.fsubs 1 2 3) ∧
    decode 0b00011110001_00011_000010_00010_00001 = .ok (.fmuls 1 2 3) ∧
    decode 0b00011110001_00011_000110_00010_00001 = .ok (.fdivs 1 2 3) ∧
    decode 0b00011110001_00011_001000_00010_00000 = .ok (.fcmps 2 3) ∧
    decode 0b10111100010_000000100_00_00010_00001 = .ok (.ldurs 1 2 4) ∧
    decode 0b10111100000_000000100_00_00010_00001 = .ok (.sturs 1 2 4) := by
  decide

theorem test_decode_double :
    decode 0b00011110011_00011_001010_00010_00001 = .ok (.faddd 1 2 3) ∧
    decode 0b00011110011_00011_001110_00010_00001 = .ok (.fsubd 1 2 3) ∧
    decode 0b00011110011_00011_000010_00010_00001 = .ok (.fmuld 1 2 3) ∧
    decode 0b00011110011_00011_000110_00010_00001 = .ok (.fdivd 1 2 3) ∧
    decode 0b00011110011_00011_001000_00010_00000 = .ok (.fcmpd 2 3) ∧
    decode 0b11111100010_000001000_00_00010_00001 = .ok (.ldurd 1 2 8) ∧
    decode 0b11111100000_111111000_00_00010_00001 = .ok (.sturd 1 2 0x1F8) := by
  decide

/-- Words of no row (95_test_vectors.md section 2.3), with the name of the refusal. -/
theorem test_decode_refused :
    [0x00000000, 0xFFFFFFFF, 0xD2400041, 0x13000000, 0x18000000, 0xB8400041, 0x38C00041, 0xD503201F, 0xD4000001,
        0xD4200000, 0xD65F03C0].map decode = List.replicate 11 (.error .unallocated) ∧
      [0x5400004E, 0x5400005F].map decode = List.replicate 2 (.error .reservedCondition) ∧
      [0x9B000041, 0x9AC30041, 0x1E230041, 0x1E230C41].map decode = List.replicate 4 (.error .reservedShamt) := by
  decide

/-- Nonzero unused fields (section 2.4): ignored, or refused under STRICT_UNUSED_FIELDS. -/
theorem test_unused_fields :
    [0xD61F03C0, 0x8B030441, 0x9B437C41, 0xF8408C41, 0xC8400E8A].map (decodeFor Params.default) =
        [.ok (.br 30), .ok (.add 1 2 3), .ok (.smulh 1 2 3), .ok (.ldur 1 2 8), .ok (.ldxr 10 20 0)] ∧
      [0xD61F03C0, 0x8B030441, 0x9B437C41, 0xF8408C41, 0xC8400E8A].map
        (decodeFor { Params.default with strictUnused := true }) = List.replicate 5 (.error .unusedFieldSet) := by
  decide

/-- The encoder on assembled words of section 2.1. -/
theorem test_encode :
    encode (.stxr 23 9 20) = 0xC8090297 ∧ encode (.bLt 0x7FFFC) = 0x54FFFF8B ∧ encode (.movz 9 0x1234 1) = 0xD2A24689 ∧
      encode (.mul 1 2 3) = 0x9B037C41 ∧ encode (.sturd 1 2 0x1F8) = 0xFC1F8041 ∧ encode (.addis 1 2 4095) = 0xB13FFC41 := by
  decide

/-- The word ADD X9, X20, X21 as bytes in both orders (R61), and a decoding that is cut short. -/
theorem test_bytes :
    decodeBytes .big [0x8B, 0x15, 0x02, 0x89, 7] = .ok (.add 9 20 21, [7]) ∧
      decodeBytes .little [0x89, 0x02, 0x15, 0x8B] = .ok (.add 9 20 21, []) ∧
      decodeBytes .big [0x8B, 0x15, 0x02] = .error .truncated ∧
      imageOfBytes .little [0x89, 0x02, 0x15, 0x8B, 0x40, 0, 0] = [0x8B150289] ∧
      decodeTableWord 32 0x8B150289 = some (.add 9 20 21) := by
  decide

/-! ## WellFormed: a term each check refuses -/

/-- The seven instructions of 70_reset_and_hazards.md section 5. -/
def sevenInstructions : Params :=
  { Params.default with implemented := [.ldur, .stur, .cbz, .add, .sub, .and, .orr], text := [0x8B150289] }

theorem test_wellFormed_instruction :
    Instr.wellFormed sevenInstructions (.add 9 20 21) = true ∧ Instr.wellFormed sevenInstructions (.eor 1 2 3) = false ∧
      decodeFor sevenInstructions 0xCA030041 = .error .notImplemented := by
  decide

theorem test_wellFormed_image :
    Params.imageWellFormed sevenInstructions = true ∧
      Params.imageWellFormed { sevenInstructions with textBase := 0x1002 } = false ∧
      Params.imageWellFormed { sevenInstructions with textBase := 0xFFFFFFFFFFFFFFFC, text := [0, 0] } = false := by
  decide

theorem test_wellFormed_memMap :
    Params.memMapWellFormed { sevenInstructions with memMap := [⟨0x2000, 0x1000⟩] } = true ∧
      Params.memMapWellFormed { sevenInstructions with memMap := [⟨0xFFFFFFFFFFFFFFFF, 2⟩] } = false := by
  decide

theorem test_wellFormed_entry :
    Launch.wellFormed { Launch.default with params := sevenInstructions } = true ∧
      Launch.wellFormed { Launch.default with params := sevenInstructions, entryPc := some 0x1002 } = false ∧
      Launch.wellFormed { Launch.default with params := sevenInstructions, entryPc := some 0x1004 } = false ∧
      Launch.wellFormed { Launch.default with params := sevenInstructions, entryPc := some 0xFFC } = false ∧
      Launch.wellFormed Launch.default = false := by
  decide

/-! ## One step -/

/-- A state with these general registers, flags NZCV all set, and the double word of section 7 at 2000. -/
def start (xs : List (Reg × Word)) : State :=
  (xs.foldl (fun (s : State) r => s.writeX r.1 r.2)
    { State.reset with mem := State.reset.mem.store .big 0x2000 8 0x8192A3B4C5D6E7F8 }).setFlags ⟨true, true, true, true⟩

/-- The same with floating-point registers 2 and 3. -/
def startD (a b : Word) : State := ((start []).writeD 2 a).writeD 3 b

/-- What `read` gives after one step that fetches and runs the word, where the step answers a next state. -/
def after {α : Type} (s : State) (word : Nat) (read : State → α) : Option α :=
  match step (s.withFetchWord 32 word) with
  | .next t => some (read t)
  | _ => none

/-- The flags as the vectors write them. -/
def nzcv (f : Flags) : Bool × Bool × Bool × Bool := (f.n, f.z, f.c, f.v)

/-! ### Add and subtract (section 3) -/

theorem test_adds_carry :
    after (start [(1, 0xFFFFFFFFFFFFFFFF), (2, 0x1)]) 0xAB020020 (fun t => (t.readX 0, nzcv t.flags, t.pc)) = some (0x0, (false, true, true, false), 0x1004) := by
  decide

theorem test_adds_negative_overflow :
    after (start [(1, 0x8000000000000000), (2, 0xFFFFFFFFFFFFFFFF)]) 0xAB020020 (fun t => (t.readX 0, nzcv t.flags, t.pc)) = some (0x7FFFFFFFFFFFFFFF, (false, false, true, true), 0x1004) := by
  decide

theorem test_subs_borrow :
    after (start [(1, 0x5), (2, 0x7)]) 0xEB020020 (fun t => (t.readX 0, nzcv t.flags, t.pc)) = some (0xFFFFFFFFFFFFFFFE, (true, false, false, false), 0x1004) := by
  decide

theorem test_subs_overflow :
    after (start [(1, 0x8000000000000000), (2, 0x1)]) 0xEB020020 (fun t => (t.readX 0, nzcv t.flags, t.pc)) = some (0x7FFFFFFFFFFFFFFF, (false, false, true, true), 0x1004) := by
  decide

theorem test_addis_not_sign_extended :
    after (start [(1, 0x7FFFFFFFFFFFFFFF), (2, 0x0)]) 0xB13FFC20 (fun t => (t.readX 0, nzcv t.flags, t.pc)) = some (0x8000000000000FFE, (true, false, false, true), 0x1004) := by
  decide

theorem test_subis_zero :
    after (start [(1, 0x1), (2, 0x0)]) 0xF1000020 (fun t => (t.readX 0, nzcv t.flags, t.pc)) = some (0x1, (false, false, true, false), 0x1004) := by
  decide

theorem test_add_wraps :
    after (start [(1, 0xFFFFFFFFFFFFFFFF), (2, 0x2)]) 0x8B020020 (fun t => (t.readX 0, nzcv t.flags, t.pc)) = some (0x1, (true, true, true, true), 0x1004) := by
  decide

theorem test_sub_wraps :
    after (start [(1, 0x0), (2, 0x1)]) 0xCB020020 (fun t => (t.readX 0, nzcv t.flags, t.pc)) = some (0xFFFFFFFFFFFFFFFF, (true, true, true, true), 0x1004) := by
  decide

theorem test_addi_not_sign_extended :
    after (start [(1, 0xFFFFFFFFFFFFFFFF), (2, 0x0)]) 0x913FFC20 (fun t => (t.readX 0, nzcv t.flags, t.pc)) = some (0xFFE, (true, true, true, true), 0x1004) := by
  decide

theorem test_subi :
    after (start [(1, 0x0), (2, 0x0)]) 0xD13FFC20 (fun t => (t.readX 0, nzcv t.flags, t.pc)) = some (0xFFFFFFFFFFFFF001, (true, true, true, true), 0x1004) := by
  decide

theorem test_adds_to_xzr :
    after (start [(1, 0xFFFFFFFFFFFFFFFF), (2, 0x1)]) 0xAB02003F (fun t => (t.readX 31, t.readX 1, nzcv t.flags)) = some (0, 0xFFFFFFFFFFFFFFFF, (false, true, true, false)) := by
  decide

theorem test_add_same_register :
    after (start [(1, 0x3), (2, 0x0)]) 0x8B010021 (fun t => t.readX 1) = some 6 := by
  decide

/-! ### Logical, shift and move wide (sections 4 and 5) -/

theorem test_and :
    after (start [(1, 0xFF00FF00FF00FF00), (2, 0x0FF00FF00FF00FF0)]) 0x8A020020 (fun t => (t.readX 0, nzcv t.flags, t.pc)) = some (0x0F000F000F000F00, (true, true, true, true), 0x1004) := by
  decide

theorem test_orr :
    after (start [(1, 0xFF00FF00FF00FF00), (2, 0x0FF00FF00FF00FF0)]) 0xAA020020 (fun t => (t.readX 0, nzcv t.flags, t.pc)) = some (0xFFF0FFF0FFF0FFF0, (true, true, true, true), 0x1004) := by
  decide

theorem test_eor :
    after (start [(1, 0xFF00FF00FF00FF00), (2, 0x0FF00FF00FF00FF0)]) 0xCA020020 (fun t => (t.readX 0, nzcv t.flags, t.pc)) = some (0xF0F0F0F0F0F0F0F0, (true, true, true, true), 0x1004) := by
  decide

theorem test_ands :
    after (start [(1, 0xFF00FF00FF00FF00), (2, 0x0FF00FF00FF00FF0)]) 0xEA020020 (fun t => (t.readX 0, nzcv t.flags, t.pc)) = some (0x0F000F000F000F00, (false, false, false, false), 0x1004) := by
  decide

theorem test_ands_negative :
    after (start [(1, 0x8000000000000000), (2, 0xFFFFFFFFFFFFFFFF)]) 0xEA020020 (fun t => (t.readX 0, nzcv t.flags, t.pc)) = some (0x8000000000000000, (true, false, false, false), 0x1004) := by
  decide

theorem test_andi :
    after (start [(1, 0x123456789ABCDEF0), (2, 0x0)]) 0x9203FC20 (fun t => (t.readX 0, nzcv t.flags, t.pc)) = some (0xF0, (true, true, true, true), 0x1004) := by
  decide

theorem test_orri :
    after (start [(1, 0x8000000000000000), (2, 0x0)]) 0xB2000420 (fun t => (t.readX 0, nzcv t.flags, t.pc)) = some (0x8000000000000001, (true, true, true, true), 0x1004) := by
  decide

theorem test_eori :
    after (start [(1, 0xFFFFFFFFFFFFFFFF), (2, 0x0)]) 0xD23FFC20 (fun t => (t.readX 0, nzcv t.flags, t.pc)) = some (0xFFFFFFFFFFFFF000, (true, true, true, true), 0x1004) := by
  decide

theorem test_andis_never_negative :
    after (start [(1, 0x8000000000000000), (2, 0x0)]) 0xF23FFC20 (fun t => (t.readX 0, nzcv t.flags, t.pc)) = some (0x0, (false, true, false, false), 0x1004) := by
  decide

theorem test_lsl :
    after (start [(1, 0x123456789ABCDEF0), (2, 0x0)]) 0xD3608020 (fun t => (t.readX 0, nzcv t.flags, t.pc)) = some (0x9ABCDEF000000000, (true, true, true, true), 0x1004) := by
  decide

theorem test_lsl_63 :
    after (start [(1, 0x1), (2, 0x0)]) 0xD360FC20 (fun t => (t.readX 0, nzcv t.flags, t.pc)) = some (0x8000000000000000, (true, true, true, true), 0x1004) := by
  decide

theorem test_lsr_is_logical :
    after (start [(1, 0x8000000000000000), (2, 0x0)]) 0xD3400420 (fun t => (t.readX 0, nzcv t.flags, t.pc)) = some (0x4000000000000000, (true, true, true, true), 0x1004) := by
  decide

theorem test_lsr_63 :
    after (start [(1, 0x8000000000000000), (2, 0x0)]) 0xD340FC20 (fun t => (t.readX 0, nzcv t.flags, t.pc)) = some (0x1, (true, true, true, true), 0x1004) := by
  decide

theorem test_movz_clears :
    after (start [(9, 0xFFFFFFFFFFFFFFFF)]) 0xD2A24689 (fun t => t.readX 9) = some 0x0000000012340000 := by
  decide

theorem test_movz_top :
    after (start []) 0xD2FFFFE9 (fun t => t.readX 9) = some 0xFFFF000000000000 := by
  decide

theorem test_movk_keeps :
    after (start [(9, 0xFFFFFFFFFFFFFFFF)]) 0xF2C24689 (fun t => t.readX 9) = some 0xFFFF1234FFFFFFFF := by
  decide

theorem test_movk_zero :
    after (start [(9, 0x1111222233334444)]) 0xF2C00009 (fun t => t.readX 9) = some 0x1111000033334444 := by
  decide

/-! ### Control transfer (section 6) -/

theorem test_b_forward :
    after (start []) 0x14000002 (fun t => t.pc) = some 0x1008 := by
  decide

theorem test_b_wraps :
    after ((start []).setPc 4) 0x17FFFFFE (fun t => t.pc) = some 0xFFFFFFFFFFFFFFFC := by
  decide

theorem test_bl :
    after (start [(30, 5)]) 0x94000040 (fun t => (t.pc, t.readX 30)) = some (0x1100, 0x1004) := by
  decide

theorem test_br_misaligned :
    after (start [(5, 0x1003)]) 0xD60000A0 (fun t => t.pc) = some 0x1003 := by
  decide

theorem test_br_xzr :
    after (start []) 0xD60003E0 (fun t => t.pc) = some 0 := by
  decide

theorem test_cbz_tests_64_bits :
    after ((start [(1, 0x100000000)]).setPc 0x3000) 0xB4000061 (fun t => t.pc) = some 0x3004 := by
  decide

theorem test_cbz_taken :
    after ((start [(1, 0)]).setPc 0x3000) 0xB47FFFE1 (fun t => t.pc) = some 0x102FFC := by
  decide

theorem test_cbnz_taken :
    after ((start [(9, 1)]).setPc 0x3010) 0xB5FFFFC9 (fun t => t.pc) = some 0x3008 := by
  decide

theorem test_cbnz_falls_through :
    after ((start []).setPc 0x3010) 0xB5FFFFDF (fun t => t.pc) = some 0x3014 := by
  decide

/-- The column of a condition in the table of section 6.2: the flags 0000 to 1111 in order. -/
def column (c : Cond) : List Bool :=
  (List.range 16).map fun k => condHolds c ⟨k.testBit 3, k.testBit 2, k.testBit 1, k.testBit 0⟩

/-- Section 6.2, a column a line, the row 0000 in the last bit. -/
theorem test_conditions :
    column .eq = (List.range 16).map (Nat.testBit 0b1111000011110000) ∧
    column .ne = (List.range 16).map (Nat.testBit 0b0000111100001111) ∧
    column .hs = (List.range 16).map (Nat.testBit 0b1100110011001100) ∧
    column .lo = (List.range 16).map (Nat.testBit 0b0011001100110011) ∧
    column .mi = (List.range 16).map (Nat.testBit 0b1111111100000000) ∧
    column .pl = (List.range 16).map (Nat.testBit 0b0000000011111111) ∧
    column .vs = (List.range 16).map (Nat.testBit 0b1010101010101010) ∧
    column .vc = (List.range 16).map (Nat.testBit 0b0101010101010101) ∧
    column .hi = (List.range 16).map (Nat.testBit 0b0000110000001100) ∧
    column .ls = (List.range 16).map (Nat.testBit 0b1111001111110011) ∧
    column .ge = (List.range 16).map (Nat.testBit 0b1010101001010101) ∧
    column .lt = (List.range 16).map (Nat.testBit 0b0101010110101010) ∧
    column .gt = (List.range 16).map (Nat.testBit 0b0000101000000101) ∧
    column .le = (List.range 16).map (Nat.testBit 0b1111010111111010) := by
  decide

theorem test_bEq_step :
    after ((start []).setFlags ⟨false, true, false, false⟩) 0x54FFFFE0 (fun t => t.pc) = some 0xFFC ∧
      after ((start []).setFlags ⟨false, false, false, false⟩) 0x54FFFFE0 (fun t => t.pc) = some 0x1004 := by
  decide

theorem test_bNe_step :
    after ((start []).setFlags ⟨false, false, false, false⟩) 0x54FFFFE1 (fun t => t.pc) = some 0xFFC ∧
      after ((start []).setFlags ⟨false, true, false, false⟩) 0x54FFFFE1 (fun t => t.pc) = some 0x1004 := by
  decide

theorem test_bHs_step :
    after ((start []).setFlags ⟨false, false, true, false⟩) 0x54FFFFE2 (fun t => t.pc) = some 0xFFC ∧
      after ((start []).setFlags ⟨false, false, false, false⟩) 0x54FFFFE2 (fun t => t.pc) = some 0x1004 := by
  decide

theorem test_bLo_step :
    after ((start []).setFlags ⟨false, false, false, false⟩) 0x54FFFFE3 (fun t => t.pc) = some 0xFFC ∧
      after ((start []).setFlags ⟨false, false, true, false⟩) 0x54FFFFE3 (fun t => t.pc) = some 0x1004 := by
  decide

theorem test_bMi_step :
    after ((start []).setFlags ⟨true, false, false, false⟩) 0x54FFFFE4 (fun t => t.pc) = some 0xFFC ∧
      after ((start []).setFlags ⟨false, false, false, false⟩) 0x54FFFFE4 (fun t => t.pc) = some 0x1004 := by
  decide

theorem test_bPl_step :
    after ((start []).setFlags ⟨false, false, false, false⟩) 0x54FFFFE5 (fun t => t.pc) = some 0xFFC ∧
      after ((start []).setFlags ⟨true, false, false, false⟩) 0x54FFFFE5 (fun t => t.pc) = some 0x1004 := by
  decide

theorem test_bVs_step :
    after ((start []).setFlags ⟨false, false, false, true⟩) 0x54FFFFE6 (fun t => t.pc) = some 0xFFC ∧
      after ((start []).setFlags ⟨false, false, false, false⟩) 0x54FFFFE6 (fun t => t.pc) = some 0x1004 := by
  decide

theorem test_bVc_step :
    after ((start []).setFlags ⟨false, false, false, false⟩) 0x54FFFFE7 (fun t => t.pc) = some 0xFFC ∧
      after ((start []).setFlags ⟨false, false, false, true⟩) 0x54FFFFE7 (fun t => t.pc) = some 0x1004 := by
  decide

theorem test_bHi_step :
    after ((start []).setFlags ⟨false, false, true, false⟩) 0x54FFFFE8 (fun t => t.pc) = some 0xFFC ∧
      after ((start []).setFlags ⟨false, false, false, false⟩) 0x54FFFFE8 (fun t => t.pc) = some 0x1004 := by
  decide

theorem test_bLs_step :
    after ((start []).setFlags ⟨false, false, false, false⟩) 0x54FFFFE9 (fun t => t.pc) = some 0xFFC ∧
      after ((start []).setFlags ⟨false, false, true, false⟩) 0x54FFFFE9 (fun t => t.pc) = some 0x1004 := by
  decide

theorem test_bGe_step :
    after ((start []).setFlags ⟨false, false, false, false⟩) 0x54FFFFEA (fun t => t.pc) = some 0xFFC ∧
      after ((start []).setFlags ⟨false, false, false, true⟩) 0x54FFFFEA (fun t => t.pc) = some 0x1004 := by
  decide

theorem test_bLt_step :
    after ((start []).setFlags ⟨false, false, false, true⟩) 0x54FFFFEB (fun t => t.pc) = some 0xFFC ∧
      after ((start []).setFlags ⟨false, false, false, false⟩) 0x54FFFFEB (fun t => t.pc) = some 0x1004 := by
  decide

theorem test_bGt_step :
    after ((start []).setFlags ⟨false, false, false, false⟩) 0x54FFFFEC (fun t => t.pc) = some 0xFFC ∧
      after ((start []).setFlags ⟨false, false, false, true⟩) 0x54FFFFEC (fun t => t.pc) = some 0x1004 := by
  decide

theorem test_bLe_step :
    after ((start []).setFlags ⟨false, false, false, true⟩) 0x54FFFFED (fun t => t.pc) = some 0xFFC ∧
      after ((start []).setFlags ⟨false, false, false, false⟩) 0x54FFFFED (fun t => t.pc) = some 0x1004 := by
  decide

/-! ### Loads and stores (section 7) -/

/-- The little-endian machine with the same double word. -/
def startLittle (xs : List (Reg × Word)) : State :=
  { start xs with
    mem := State.reset.mem.store .little 0x2000 8 0x8192A3B4C5D6E7F8, params := { Params.default with byteOrder := .little } }

theorem test_ldur :
    after (start [(1, 0xFFFFFFFFFFFFFFFF), (2, 0x2000)]) 0xF8400041 (fun t => t.readX 1) = some 0x8192A3B4C5D6E7F8 ∧
      after (startLittle [(1, 0xFFFFFFFFFFFFFFFF), (2, 0x2000)]) 0xF8400041 (fun t => t.readX 1) = some 0x8192A3B4C5D6E7F8 := by
  decide

theorem test_ldurb :
    after (start [(1, 0xFFFFFFFFFFFFFFFF), (2, 0x2000)]) 0x38407041 (fun t => t.readX 1) = some 0xF8 ∧
      after (startLittle [(1, 0xFFFFFFFFFFFFFFFF), (2, 0x2000)]) 0x38407041 (fun t => t.readX 1) = some 0x81 := by
  decide

theorem test_ldurh :
    after (start [(1, 0xFFFFFFFFFFFFFFFF), (2, 0x2000)]) 0x78400041 (fun t => t.readX 1) = some 0x8192 ∧
      after (startLittle [(1, 0xFFFFFFFFFFFFFFFF), (2, 0x2000)]) 0x78400041 (fun t => t.readX 1) = some 0xE7F8 := by
  decide

theorem test_ldursw :
    after (start [(1, 0xFFFFFFFFFFFFFFFF), (2, 0x2000)]) 0xB8800041 (fun t => t.readX 1) = some 0xFFFFFFFF8192A3B4 ∧
      after (startLittle [(1, 0xFFFFFFFFFFFFFFFF), (2, 0x2000)]) 0xB8800041 (fun t => t.readX 1) = some 0xFFFFFFFFC5D6E7F8 := by
  decide

theorem test_ldur_base_is_destination :
    after (start [(2, 0x2008)]) 0xF85F8042 (fun t => t.readX 2) = some 0x8192A3B4C5D6E7F8 := by
  decide

theorem test_stur :
    after { start [(1, 0x1122334455667788), (2, 0x2000)] with mem := [] } 0xF8000041 (fun t => t.mem.readBytes 0x2000 8) =
        some [0x11, 0x22, 0x33, 0x44, 0x55, 0x66, 0x77, 0x88] ∧
      after { startLittle [(1, 0x1122334455667788), (2, 0x2000)] with mem := [] } 0xF8000041 (fun t => t.mem.readBytes 0x2000 8) =
        some [0x88, 0x77, 0x66, 0x55, 0x44, 0x33, 0x22, 0x11] := by
  decide

theorem test_sturb :
    after { start [(1, 0x1122334455667788), (2, 0x2000)] with mem := [] } 0x38003041 (fun t => t.mem.readBytes 0x2000 8) =
        some [0x00, 0x00, 0x00, 0x88, 0x00, 0x00, 0x00, 0x00] ∧
      after { startLittle [(1, 0x1122334455667788), (2, 0x2000)] with mem := [] } 0x38003041 (fun t => t.mem.readBytes 0x2000 8) =
        some [0x00, 0x00, 0x00, 0x88, 0x00, 0x00, 0x00, 0x00] := by
  decide

theorem test_sturh :
    after { start [(1, 0x1122334455667788), (2, 0x2000)] with mem := [] } 0x78002041 (fun t => t.mem.readBytes 0x2000 8) =
        some [0x00, 0x00, 0x77, 0x88, 0x00, 0x00, 0x00, 0x00] ∧
      after { startLittle [(1, 0x1122334455667788), (2, 0x2000)] with mem := [] } 0x78002041 (fun t => t.mem.readBytes 0x2000 8) =
        some [0x00, 0x00, 0x88, 0x77, 0x00, 0x00, 0x00, 0x00] := by
  decide

theorem test_sturw :
    after { start [(1, 0x1122334455667788), (2, 0x2000)] with mem := [] } 0xB8004041 (fun t => t.mem.readBytes 0x2000 8) =
        some [0x00, 0x00, 0x00, 0x00, 0x55, 0x66, 0x77, 0x88] ∧
      after { startLittle [(1, 0x1122334455667788), (2, 0x2000)] with mem := [] } 0xB8004041 (fun t => t.mem.readBytes 0x2000 8) =
        some [0x00, 0x00, 0x00, 0x00, 0x88, 0x77, 0x66, 0x55] := by
  decide

/-- MEM_MAP = 2000 to 2FFF. -/
def startMapped (xs : List (Reg × Word)) : State :=
  { start xs with params := { Params.default with memMap := [⟨0x2000, 0x1000⟩] } }

theorem test_stur_misaligned :
    after (startMapped [(1, 7), (2, 0x2000)]) 0xF8004041
        (fun t => (t.faultRecord, t.mem.readBytes 0x2000 8, t.pc)) =
      some (some ⟨.dataAbort, 0x1000, some 0x2004⟩, [0x81, 0x92, 0xA3, 0xB4, 0xC5, 0xD6, 0xE7, 0xF8], 0x1000) := by
  decide

theorem test_ldur_edges_of_the_map :
    after (startMapped [(2, 0x2FF8)]) 0xF8400041 (fun t => t.faultRecord) = some none ∧
      after (startMapped [(2, 0x3000)]) 0xF8400041 (fun t => t.faultRecord) = some (some ⟨.dataAbort, 0x1000, some 0x3000⟩) ∧
      after (startMapped [(2, 0x2000)]) 0xF85F8041 (fun t => t.faultRecord) = some (some ⟨.dataAbort, 0x1000, some 0x1FF8⟩) := by
  decide

theorem test_ldur_split :
    after { start [(2, 0x2000)] with
        params := { Params.default with misaligned := .split }
        mem := (State.reset.mem.store .big 0x2000 8 0x0011223344556677).store .big 0x2008 2 0x8899 }
      0xF8401041 (fun t => t.readX 1) = some 0x1122334455667788 := by
  decide

/-! ### The exclusive pair (section 8) -/

theorem test_ldxr :
    after { start [(20, 0x2000)] with mem := [(0x2007, 5)] } 0xC840028A (fun t => (t.readX 10, t.monitor)) =
      some (5, some 0x2000) := by
  decide

theorem test_ldxr_misaligned_under_split :
    after { start [(20, 0x2000)] with params := { Params.default with misaligned := .split } } 0xC840428A
      (fun t => t.faultRecord) = some (some ⟨.dataAbort, 0x1000, some 0x2004⟩) := by
  decide

theorem test_stxr_paired :
    after { start [(20, 0x2000), (9, 7)] with mem := [(0x2007, 5)], monitor := some 0x2000 } 0xC8090289
      (fun t => (t.mem, t.readX 9, t.monitor)) = some ([(0x2007, 7)], 0, none) := by
  decide

theorem test_stxr_alone :
    after { start [(20, 0x2000), (23, 6)] with mem := [(0x2007, 5)], monitor := some 0x2008 } 0xC8090297
      (fun t => (t.mem, t.readX 9, t.monitor)) = some ([(0x2007, 5)], 1, none) := by
  decide

/-! ### Multiply and divide (section 9) -/

theorem test_mul :
    after (start [(1, 0x123456789ABCDEF0), (2, 0x10)]) 0x9B027C20 (fun t => (t.readX 0, nzcv t.flags, t.pc)) = some (0x23456789ABCDEF00, (true, true, true, true), 0x1004) := by
  decide

theorem test_smulh :
    after (start [(1, 0x8000000000000000), (2, 0x7FFFFFFFFFFFFFFF)]) 0x9B420020 (fun t => (t.readX 0, nzcv t.flags, t.pc)) = some (0xC000000000000000, (true, true, true, true), 0x1004) := by
  decide

theorem test_smulh_negative :
    after (start [(1, 0xFFFFFFFFFFFFFFFF), (2, 0x1)]) 0x9B420020 (fun t => (t.readX 0, nzcv t.flags, t.pc)) = some (0xFFFFFFFFFFFFFFFF, (true, true, true, true), 0x1004) := by
  decide

theorem test_umulh :
    after (start [(1, 0xFFFFFFFFFFFFFFFF), (2, 0xFFFFFFFFFFFFFFFF)]) 0x9BC20020 (fun t => (t.readX 0, nzcv t.flags, t.pc)) = some (0xFFFFFFFFFFFFFFFE, (true, true, true, true), 0x1004) := by
  decide

theorem test_sdiv_truncates :
    after (start [(1, 0xFFFFFFFFFFFFFFF9), (2, 0x2)]) 0x9AC20820 (fun t => (t.readX 0, nzcv t.flags, t.pc)) = some (0xFFFFFFFFFFFFFFFD, (true, true, true, true), 0x1004) := by
  decide

theorem test_sdiv_overflow :
    after (start [(1, 0x8000000000000000), (2, 0xFFFFFFFFFFFFFFFF)]) 0x9AC20820 (fun t => (t.readX 0, nzcv t.flags, t.pc)) = some (0x8000000000000000, (true, true, true, true), 0x1004) := by
  decide

theorem test_udiv :
    after (start [(1, 0xFFFFFFFFFFFFFFF9), (2, 0x2)]) 0x9AC20C20 (fun t => (t.readX 0, nzcv t.flags, t.pc)) = some (0x7FFFFFFFFFFFFFFC, (true, true, true, true), 0x1004) := by
  decide

theorem test_udiv_by_zero :
    after (start [(1, 0x5), (2, 0x0)]) 0x9AC20C20 (fun t => (t.readX 0, nzcv t.flags, t.pc)) = some (0x0, (true, true, true, true), 0x1004) := by
  decide

/-! ### Floating point (section 10) -/

theorem test_fadds_tie_to_even :
    step ((startD 0x3F800001 0x33800000).withFetchWord 32 0x1E232841) =
      .next (((startD 0x3F800001 0x33800000).withFetchWord 32 0x1E232841).writeS 1 0x3F800002).nextPc := by
  rfl

theorem test_fadds_overflow :
    step ((startD 0x7F7FFFFF 0x7F7FFFFF).withFetchWord 32 0x1E232841) =
      .next (((startD 0x7F7FFFFF 0x7F7FFFFF).withFetchWord 32 0x1E232841).writeS 1 0x7F800000).nextPc := by
  rfl

theorem test_fsubs :
    step ((startD 0x3FC00000 0x40100000).withFetchWord 32 0x1E233841) =
      .next (((startD 0x3FC00000 0x40100000).withFetchWord 32 0x1E233841).writeS 1 0xBF400000).nextPc := by
  rfl

theorem test_fmuls_denormal :
    step ((startD 0x00800000 0x3F000000).withFetchWord 32 0x1E230841) =
      .next (((startD 0x00800000 0x3F000000).withFetchWord 32 0x1E230841).writeS 1 0x00400000).nextPc := by
  rfl

theorem test_fmuls :
    step ((startD 0x3FC00000 0x40100000).withFetchWord 32 0x1E230841) =
      .next (((startD 0x3FC00000 0x40100000).withFetchWord 32 0x1E230841).writeS 1 0x40580000).nextPc := by
  rfl

theorem test_fdivs_rounds :
    step ((startD 0x3F800000 0x40400000).withFetchWord 32 0x1E231841) =
      .next (((startD 0x3F800000 0x40400000).withFetchWord 32 0x1E231841).writeS 1 0x3EAAAAAB).nextPc := by
  rfl

theorem test_fdivs_by_zero :
    step ((startD 0xBF800000 0x00000000).withFetchWord 32 0x1E231841) =
      .next (((startD 0xBF800000 0x00000000).withFetchWord 32 0x1E231841).writeS 1 0xFF800000).nextPc := by
  rfl

theorem test_faddd :
    after (startD 0x3FB999999999999A 0x3FC999999999999A) 0x1E632841 (fun t => (t.readD 1, nzcv t.flags)) = some (0x3FD3333333333334, (true, true, true, true)) := by
  decide +kernel

theorem test_faddd_zeros :
    after (startD 0x0000000000000000 0x8000000000000000) 0x1E632841 (fun t => (t.readD 1, nzcv t.flags)) = some (0x0, (true, true, true, true)) := by
  decide +kernel

theorem test_fsubd :
    after (startD 0x3FF8000000000000 0x4002000000000000) 0x1E633841 (fun t => (t.readD 1, nzcv t.flags)) = some (0xBFE8000000000000, (true, true, true, true)) := by
  decide +kernel

theorem test_fmuld_minus_zero :
    after (startD 0xBFF0000000000000 0x0000000000000000) 0x1E630841 (fun t => (t.readD 1, nzcv t.flags)) = some (0x8000000000000000, (true, true, true, true)) := by
  decide +kernel

theorem test_fmuld_denormal :
    after (startD 0x0010000000000000 0x3FE0000000000000) 0x1E630841 (fun t => (t.readD 1, nzcv t.flags)) = some (0x0008000000000000, (true, true, true, true)) := by
  decide +kernel

theorem test_fdivd :
    after (startD 0x3FF0000000000000 0x4008000000000000) 0x1E631841 (fun t => (t.readD 1, nzcv t.flags)) = some (0x3FD5555555555555, (true, true, true, true)) := by
  decide +kernel

theorem test_nan_results :
    FpFormat.single.arith .div 0 0 = none ∧ FpFormat.single.arith .sub 0x7F800000 0x7F800000 = none ∧
      FpFormat.double.arith .mul 0 0x7FF0000000000000 = none ∧ nanOf32 0x80000000 = 0xFFC00000 ∧
      nanOf64 5 = 0x7FF0000000000005 := by
  decide +kernel

theorem test_fcmps_not_by_bit_pattern :
    after (startD 0xBF800000 0x3F800000) 0x1E232040 (fun t => nzcv t.flags) = some (true, false, false, false) := by
  decide +kernel

theorem test_fcmps_zeros_equal :
    after (startD 0x00000000 0x80000000) 0x1E232040 (fun t => nzcv t.flags) = some (false, true, true, false) := by
  decide +kernel

theorem test_fcmpd_greater :
    after (startD 0x4002000000000000 0x3FF8000000000000) 0x1E632040 (fun t => nzcv t.flags) = some (false, false, true, false) := by
  decide +kernel

theorem test_fcmpd_nan_with_itself :
    after (startD 0x7FF8000000000000 0x7FF8000000000000) 0x1E632040 (fun t => nzcv t.flags) = some (false, false, true, true) := by
  decide +kernel

theorem test_ldurd :
    after (start [(2, 0x1FF8)]) 0xFC408041 (fun t => t.readD 1) = some 0x8192A3B4C5D6E7F8 := by
  decide

theorem test_sturd :
    after ((start [(2, 0x2008)]).writeD 1 0x400E000000000000) 0xFC1F8041 (fun t => t.mem) =
      some [(0x2000, 0x40), (0x2001, 0x0E)] := by
  decide

theorem test_ldurs :
    step ((start [(2, 0x2000)]).withFetchWord 32 0xBC404041) =
      .next (((start [(2, 0x2000)]).withFetchWord 32 0xBC404041).writeS 1 0xC5D6E7F8).nextPc := by
  rfl

theorem test_sturs :
    after { (start [(2, 0x2000)]).writeD 1 0x3FF8000040400000 with mem := [] } 0xBC004041 (fun t => t.mem) =
      some [(0x2004, 0x40), (0x2005, 0x40)] := by
  decide

theorem test_fp_disabled_before_the_address :
    after { start [(2, 1)] with params := { Params.default with fpEnabled := false } } 0xFC400041
      (fun t => t.faultRecord) = some (some ⟨.simdDisabled, 0x1000, none⟩) := by
  decide

/-! ### Exceptions and the end of a run (section 11) -/

/-- A machine with this image at 1000. -/
def launched (text : List Word32) (xs : List (Reg × Word)) : State :=
  { startMapped xs with params := { (startMapped xs).params with text := text } }

/-- ESR's bits 31:25 for the ten classes (S9). -/
theorem test_esr :
    [ExcClass.unknown, .simdDisabled, .illegalState, .supervisorCall, .instructionAbort, .misalignedPc, .dataAbort,
        .floatingPoint, .dataBreakpoint, .swBreakpoint].map (fun c => esrOf c 0) =
      [0x02000000, 0x1E000000, 0x3A000000, 0x46000000, 0x82000000, 0x8A000000, 0x92000000, 0xA2000000, 0xD2000000,
        0xE2000000] := by
  decide

theorem test_misaligned_pc_wins :
    (match step ((launched [0xD60000A0] []).setPc 0x5003) with
      | .next t => some t.faultRecord | _ => none) = some (some ⟨.misalignedPc, 0x5003, some 0x5003⟩) := by
  decide

theorem test_instruction_abort :
    (match step ((launched [0x14000040] []).setPc 0x1100) with
      | .next t => some t.faultRecord | _ => none) = some (some ⟨.instructionAbort, 0x1100, some 0x1100⟩) := by
  decide

theorem test_unknown :
    (match step (launched [0x5400004E] []) with
      | .next t => some (t.faultRecord, t.pc) | _ => none) = some (some ⟨.unknown, 0x1000, none⟩, 0x1000) := by
  decide

theorem test_exit_and_after_a_fault :
    (match step ((launched [0x8B1F03FF] []).setPc 0x1004) with
      | .fault .runEnded => true | _ => false) = true ∧
    (match step ((launched [0] []).takeException .unknown) with
      | .fault (.faulted .unknown) => true | _ => false) = true := by
  decide

/-! ## Witnesses: for each statement with hypotheses, a state and operands that meet them, clause by clause -/

theorem witness_DecodeOfEncode : Instr.wellFormed sevenInstructions (.add 9 20 21) = true := by decide

theorem witness_EncodeOfDecode : decode 0xD61F03C0 = .ok (.br 30) := by decide

/-- The first and the last reserved condition, shamts beside the listed ones, and a step for each way to be refused. -/
theorem witness_UnallocatedWords :
    14 ≤ (14 : BitVec 5).toNat ∧ 14 ≤ (31 : BitVec 5).toNat ∧
      (0b000000 : BitVec 6) ∉ [(0b000010 : BitVec 6), 0b000110, 0b001000, 0b001010, 0b001110] ∧
      (0b000001 : BitVec 6) ∉ [(0b000010 : BitVec 6), 0b000011] ∧ (0b011110 : BitVec 6) ≠ 0b011111 ∧
      (launched [0xFFFFFFFF] []).faultRecord = none ∧
      fetch (launched [0xFFFFFFFF] []).params (launched [0xFFFFFFFF] []).pc = .word 0xFFFFFFFF ∧
      decode 0xFFFFFFFF = .error .unallocated ∧
      fetch { (launched [0xD61F03C0] []).params with strictUnused := true } 0x1000 = .word 0xD61F03C0 ∧
      decode 0xD61F03C0 = .ok (.br 30) ∧ 0xD61F03C0 &&& unusedMask .br ≠ 0 := by
  decide

theorem witness_RegisterThirtyOne :
    destX (.adds 31 1 2) = some 31 ∧ (∃ t, exec (.adds 31 1 2) State.reset = .next t) ∧
      AccessAllowed (startMapped [(2, 0x2FF8)]).params true ((startMapped [(2, 0x2FF8)]).dAddr 2 0) 8 ∧
      ¬ AccessAllowed (startMapped [(2, 0x3000)]).params false ((startMapped [(2, 0x3000)]).dAddr 2 0) 8 :=
  ⟨rfl, ⟨_, rfl⟩, by unfold AccessAllowed; decide, by unfold AccessAllowed; decide⟩

theorem witness_LogicalSetFlags : State.reset.params.logicalCV = .fixed (false, false) := rfl

/-- The quarters 2 and 0 of a constant whose quarter 3 is zero, after a MOVZ of quarter 1. -/
theorem witness_AnyConstantByMoves :
    (9 : Reg) ≠ 31 ∧ ∀ h : BitVec 2, h ≠ 1 → (0x0000333322221111 : Word).extractLsb' (16 * h.toNat) 16 ≠ 0 →
      h ∈ [(2 : BitVec 2), 0] := by
  decide

theorem witness_ConditionalBranches :
    14 ≤ (14 : BitVec 5).toNat ∧ (launched [0x5400004E] []).faultRecord = none ∧
      fetch (launched [0x5400004E] []).params (launched [0x5400004E] []).pc = .word (encodeCB 0b01010100 2 14) := by
  decide

theorem witness_OnlyBrMisalignsThePc :
    (∀ rn, Instr.bl 0x40 ≠ .br rn) ∧ State.reset.pc.toNat % 4 = 0 ∧ ∃ t, exec (.bl 0x40) State.reset = .next t :=
  ⟨fun _ => Instr.noConfusion, by decide, _, rfl⟩

/-- The last access of each size in MEM_MAP, the first beyond it, and a misaligned one. -/
theorem witness_accesses :
    (∀ n ∈ [1, 2, 4, 8], AccessAllowed (startMapped []).params false (0x3000 - BitVec.ofNat 64 n) n) ∧
      (∀ n ∈ [1, 2, 4, 8], ¬ AccessAllowed (startMapped []).params false 0x3000 n) ∧
      (∀ n ∈ [2, 4, 8], ¬ AccessAllowed (startMapped []).params false 0x2001 n) ∧
      AccessAllowed { (startMapped []).params with misaligned := .split } false 0x2FF7 8 := by
  unfold AccessAllowed; decide

theorem witness_MemoryRead :
    8 ∈ [1, 2, 4, 8] ∧ AccessAllowed (startMapped []).params false 0x2FF8 8 ∧
      ¬ AccessAllowed (startMapped []).params false 0x2FFC 8 := by
  unfold AccessAllowed; decide

theorem witness_MemoryWrite :
    4 ∈ [1, 2, 4, 8] ∧ (startMapped []).mem.wf ∧ AccessAllowed (startMapped []).params false 0x2FFC 4 ∧
      ¬ AccessAllowed (startMapped []).params false 0x1FFC 4 := by
  unfold AccessAllowed; decide

theorem witness_MixedWidths : Memory.wf (startMapped []).mem ∧ (0xFFFFFFFFFFFFFFF8 : Word).toNat % 8 = 0 := by decide

/-- Base registers that put the address at the last access of its size, and just beyond. -/
theorem witness_IntegerLoads :
    (∀ n ∈ [1, 2, 4, 8],
      AccessAllowed (startMapped [(2, 0x3000 - BitVec.ofNat 64 n)]).params false
        ((startMapped [(2, 0x3000 - BitVec.ofNat 64 n)]).readX 2 + (0 : BitVec 9).signExtend 64) n) ∧
      ∀ n ∈ [1, 2, 4, 8], ¬ AccessAllowed (startMapped [(2, 0x2FFF)]).params false
        ((startMapped [(2, 0x2FFF)]).readX 2 + (1 : BitVec 9).signExtend 64) n := by
  unfold AccessAllowed; decide

theorem witness_IntegerStores :
    (startMapped [(2, 0x2000)]).mem.wf ∧
      (∀ n ∈ [1, 2, 4, 8], AccessAllowed (startMapped [(2, 0x2000)]).params false
        ((startMapped [(2, 0x2000)]).readX 2 + (0 : BitVec 9).signExtend 64) n) ∧
      ∀ n ∈ [1, 2, 4, 8], ¬ AccessAllowed (startMapped [(2, 0x2000)]).params false
        ((startMapped [(2, 0x2000)]).readX 2 + (0x1FF : BitVec 9).signExtend 64) n := by
  unfold AccessAllowed; decide

theorem witness_LoadAfterStore :
    (startMapped [(2, 0x2100), (3, 0x1F08)]).mem.wf ∧ (1 : Reg) ≠ 31 ∧
      (startMapped [(2, 0x2100), (3, 0x1F08)]).readX 3 + (0xF8 : BitVec 9).signExtend 64 =
        (startMapped [(2, 0x2100), (3, 0x1F08)]).readX 2 + (0x100 : BitVec 9).signExtend 64 ∧
      ∀ n ∈ [1, 2, 4, 8], AccessAllowed (startMapped [(2, 0x2100), (3, 0x1F08)]).params false
        ((startMapped [(2, 0x2100), (3, 0x1F08)]).readX 2 + (0x100 : BitVec 9).signExtend 64) n := by
  unfold AccessAllowed; decide

/-- An address of each clause: the last double word of MEM_MAP, a misaligned one, the first beyond MEM_MAP. -/
theorem witness_LoadExclusive :
    ((0x2FF8 : Word).toNat % 8 = 0 ∧ ∀ j, j < 8 → mapped (startMapped []).params (0x2FF8 + BitVec.ofNat 64 j) = true) ∧
      (startMapped [(20, 0x2FF8)]).readX 20 + (0 : BitVec 9).signExtend 64 = 0x2FF8 ∧
      (0x2FFC : Word).toNat % 8 ≠ 0 ∧ (startMapped [(20, 0x2FF8)]).readX 20 + (4 : BitVec 9).signExtend 64 = 0x2FFC ∧
      ((0x3000 : Word).toNat % 8 = 0 ∧ ¬ ∀ j, j < 8 → mapped (startMapped []).params (0x3000 + BitVec.ofNat 64 j) = true) ∧
      (startMapped [(20, 0x2FF8)]).readX 20 + (8 : BitVec 9).signExtend 64 = 0x3000 := by
  decide

/-- X20 for each clause, with the monitor armed at it or clear, and both settings of STXR_SPURIOUS_FAIL. -/
theorem witness_StoreExclusive :
    (startMapped []).mem.wf ∧ (startMapped [(20, 0x2004)]).readX 20 = 0x2004 ∧ (0x2004 : Word).toNat % 8 ≠ 0 ∧
      (startMapped [(20, 0x2FF8)]).readX 20 = 0x2FF8 ∧ (0x2FF8 : Word).toNat % 8 = 0 ∧
      (startMapped [(20, 0x2FF8)]).monitor ≠ some 0x2FF8 ∧
      { startMapped [(20, 0x2FF8)] with monitor := some 0x2FF8 }.monitor = some 0x2FF8 ∧
      (startMapped []).params.stxrSpurious = false ∧
      (∀ j, j < 8 → mapped (startMapped []).params (0x2FF8 + BitVec.ofNat 64 j) = true) ∧
      (startMapped [(20, 0x3000)]).readX 20 = 0x3000 ∧ (0x3000 : Word).toNat % 8 = 0 ∧
      (¬ ∀ j, j < 8 → mapped (startMapped []).params (0x3000 + BitVec.ofNat 64 j) = true) ∧
      { (startMapped []).params with stxrSpurious := true }.stxrSpurious = true := by
  decide

/-- An LDXR, an STXR, a store, and an LDXR that raises, each from an empty fault record. -/
theorem witness_MonitorChanges :
    (startMapped [(20, 0x2000)]).faultRecord = none ∧
      (∃ t, exec (.ldxr 10 20 0) (startMapped [(20, 0x2000)]) = .next t ∧ t.faultRecord = none) ∧
      (∃ t, exec (.stxr 23 9 20) (startMapped [(20, 0x2000)]) = .next t ∧ t.faultRecord = none) ∧
      (∃ t, exec (.stur 10 20 0) (startMapped [(20, 0x2000)]) = .next t ∧ t.faultRecord = none) ∧
      ∃ t, exec (.ldxr 10 20 1) (startMapped [(20, 0x2000)]) = .next t ∧ t.faultRecord ≠ none :=
  ⟨by decide, ⟨_, rfl, by decide⟩, ⟨_, rfl, by decide⟩, ⟨_, rfl, by decide⟩, ⟨_, rfl, by decide⟩⟩

theorem witness_PairedStoreSucceeds :
    (startMapped [(20, 0x2000)]).mem.wf ∧ (startMapped [(20, 0x2000)]).faultRecord = none ∧
      (startMapped [(20, 0x2000)]).params.stxrSpurious = false ∧
      (∀ i ∈ [Instr.addi 10 10 1, .stur 10 20 0], i.mnemonic ≠ .ldxr ∧ i.mnemonic ≠ .stxr) ∧
      ∃ t, execSeq [.ldxr 10 20 0, .addi 10 10 1, .stur 10 20 0] (startMapped [(20, 0x2000)]) = .next t ∧
        t.faultRecord = none ∧ t.readX 20 = (startMapped [(20, 0x2000)]).dAddr 20 0 :=
  ⟨by decide, by decide, by decide, by decide, _, rfl, by decide, by decide⟩

theorem witness_Divide :
    (start [(1, 5)]).readX 2 = 0 ∧ (start []).params.divByZero = .fixed 0 ∧
      ((start [(1, 0x8000000000000000)]).readX 1).toInt = -2 ^ 63 ∧ ((start [(2, 0xFFFFFFFFFFFFFFFF)]).readX 2).toInt = -1 ∧
      (start []).params.sdivOverflow = .fixed 0x8000000000000000 ∧
      ((start [(1, 0x8000000000000001)]).readX 1).toInt ≠ -2 ^ 63 ∧ (start [(2, 1)]).readX 2 ≠ 0 := by
  decide

theorem witness_ProductAndQuotientLaws :
    (0xFFFFFFFFFFFFFFFF : Word) ≠ 0 ∧ (0x8000000000000001 : Word).toInt ≠ -2 ^ 63 := by
  decide

theorem witness_SingleArithmetic : (startD 0x3F800000 0x40000000).params.fpEnabled = true := rfl
theorem witness_DoubleArithmetic : (startD 0x3FF0000000000000 0x4000000000000000).params.fpEnabled = true := rfl
theorem witness_CompareInstructions :
    (startD 0x3F800000 0x7FC00000).params.fpEnabled = true ∧
      (startD 0x3F800000 0x7FC00000).params.fcmpUnordered = .fixed ⟨false, false, true, true⟩ := ⟨rfl, rfl⟩

/-- The least and the greatest exponent of each clause, in both formats. -/
theorem witness_PatternsDenoteTheirValues :
    ((0x7F800001 : Word32).extractLsb' 23 8).toNat = 255 ∧ ((0x7F800001 : Word32).extractLsb' 0 23).toNat ≠ 0 ∧
      ((0xFF800000 : Word32).extractLsb' 23 8).toNat = 255 ∧ ((0xFF800000 : Word32).extractLsb' 0 23).toNat = 0 ∧
      ((0x00800000 : Word32).extractLsb' 23 8).toNat = 1 ∧ ((0x7F7FFFFF : Word32).extractLsb' 23 8).toNat = 254 ∧
      ((0x007FFFFF : Word32).extractLsb' 23 8).toNat = 0 ∧
      ((0x7FF0000000000001 : Word).extractLsb' 52 11).toNat = 2047 ∧
      ((0x7FF0000000000001 : Word).extractLsb' 0 52).toNat ≠ 0 ∧
      ((0xFFF0000000000000 : Word).extractLsb' 52 11).toNat = 2047 ∧
      ((0xFFF0000000000000 : Word).extractLsb' 0 52).toNat = 0 ∧
      ((0x0010000000000000 : Word).extractLsb' 52 11).toNat = 1 ∧
      ((0x7FEFFFFFFFFFFFFF : Word).extractLsb' 52 11).toNat = 2046 ∧
      ((0x000FFFFFFFFFFFFF : Word).extractLsb' 52 11).toNat = 0 := by
  decide

theorem witness_ArithmeticRoundsTheExactResult :
    FpFormat.single.finite 0x3FC00000 = some (3 / 2) ∧ FpFormat.single.finite 0xBF800000 = some (-1) ∧
      (-1 : ℚ) ≠ 0 ∧ FpFormat.double.finite 0x3FF8000000000000 = some (3 / 2) := by
  decide +kernel

theorem witness_SpecialOperands :
    FpFormat.single.value 0x7F800001 = .nan ∧ FpFormat.single.value 0x7F800000 = .inf false ∧
      FpFormat.single.value 0xFF800000 = .inf true ∧ FpFormat.single.value 0x80000000 = .fin true 0 ∧
      FpFormat.single.value 1 = .fin false 1 := by
  decide

theorem witness_CompareOrdersTheValues :
    (∃ x, FpFormat.single.extended 0x80000000 = some x) ∧ (∃ x, FpFormat.single.extended 0x7F800000 = some x) ∧
      FpFormat.single.extended 0x7F800001 = none ∧ FpRel.flags .less = some ⟨true, false, false, false⟩ :=
  ⟨⟨_, if_pos (by decide)⟩, ⟨_, (if_neg (by decide)).trans (if_pos (by decide))⟩,
    (if_neg (by decide)).trans (if_neg (by decide)), rfl⟩

theorem witness_FloatingPointTransfers :
    (startMapped [(2, 0x2FF8)]).mem.wf ∧ (startMapped [(2, 0x2FF8)]).params.fpEnabled = true ∧
      AccessAllowed (startMapped [(2, 0x2FF8)]).params false
        ((startMapped [(2, 0x2FF8)]).readX 2 + (4 : BitVec 9).signExtend 64) 4 ∧
      AccessAllowed (startMapped [(2, 0x2FF8)]).params false
        ((startMapped [(2, 0x2FF8)]).readX 2 + (0 : BitVec 9).signExtend 64) 8 ∧
      ¬ AccessAllowed (startMapped [(2, 0x2FF8)]).params false
        ((startMapped [(2, 0x2FF8)]).readX 2 + (8 : BitVec 9).signExtend 64) 4 ∧
      ¬ AccessAllowed (startMapped [(2, 0x2FF8)]).params false
        ((startMapped [(2, 0x2FF8)]).readX 2 + (4 : BitVec 9).signExtend 64) 8 := by
  unfold AccessAllowed; decide

theorem witness_BitsThroughMemory :
    (startMapped [(2, 0x2FF8)]).mem.wf ∧ (startMapped [(2, 0x2FF8)]).params.fpEnabled = true ∧ (1 : Reg) ≠ 31 ∧
      AccessAllowed (startMapped [(2, 0x2FF8)]).params false ((startMapped [(2, 0x2FF8)]).dAddr 2 0) 8 ∧
      AccessAllowed (startMapped [(2, 0x2FF8)]).params false ((startMapped [(2, 0x2FF8)]).dAddr 2 4) 4 := by
  unfold AccessAllowed; decide

/-- A pc for each clause: misaligned, EXIT_PC, the addresses on either side of a one-word image, and the image. -/
theorem witness_FetchChecks :
    (launched [0x8B1F03FF] []).faultRecord = none ∧ (0x1002 : Word).toNat % 4 ≠ 0 ∧ (0x1004 : Word).toNat % 4 = 0 ∧
      exitPc (launched [0x8B1F03FF] []).params = 0x1004 ∧ (0xFFC : Word) ≠ 0x1004 ∧
      (0xFFC : Word).toNat < (launched [0x8B1F03FF] []).params.textBase.toNat ∧ (0x1008 : Word) ≠ 0x1004 ∧
      (launched [0x8B1F03FF] []).params.textBase.toNat + 4 * (launched [0x8B1F03FF] []).params.text.length ≤
        (0x1008 : Word).toNat ∧
      (launched [0x8B1F03FF] []).pc.toNat = (launched [0x8B1F03FF] []).params.textBase.toNat + 4 * 0 ∧
      (launched [0x8B1F03FF] []).params.text[0]? = some 0x8B1F03FF := by
  decide

theorem witness_StepRunsTheInstruction :
    (launched [0x8B1F03FF] []).faultRecord = none ∧ (launched [0x8B1F03FF] []).pc.toNat % 4 = 0 ∧
      (launched [0x8B1F03FF] []).pc ≠ exitPc (launched [0x8B1F03FF] []).params ∧
      (launched [0x8B1F03FF] []).pc.toNat = (launched [0x8B1F03FF] []).params.textBase.toNat + 4 * 0 ∧
      (launched [0x8B1F03FF] []).params.text[0]? = some 0x8B1F03FF ∧ decode 0x8B1F03FF = .ok (.add 31 31 31) ∧
      Instr.wellFormed (launched [0x8B1F03FF] []).params (.add 31 31 31) = true ∧
      ((launched [0x8B1F03FF] []).params.strictUnused = true → 0x8B1F03FF &&& unusedMask .add = 0) := by
  decide

/-- Two steps to the normal end, two to a fault, and a branch to itself. -/
theorem witness_ThreeEndsOfARun :
    (∃ t, runFor 2 (launched [0x8B1F03FF] []) = .done t) ∧ (∃ r t, runFor 2 (launched [0] []) = .fault r t) ∧
      (launched [] []).params.exitPc = none ∧ (launched [0x14000000] []).faultRecord = none ∧
      fetch (launched [0x14000000] []).params (launched [0x14000000] []).pc = .word 0x14000000 ∧
      Instr.wellFormed (launched [0x14000000] []).params (.b 0) = true ∧
      (∃ t, step (launched [0x8B1F03FF] []) = .next t) ∧ step (launched [] []) = .fault .runEnded ∧
      ((launched [] []).takeException .unknown).faultRecord = some ⟨.unknown, 0x1000, none⟩ :=
  ⟨⟨_, rfl⟩, ⟨_, _, rfl⟩, rfl, rfl, by decide, by decide, ⟨_, rfl⟩, rfl, rfl⟩

/-- A step that takes an exception, one that takes none, and a disabled floating-point unit. -/
theorem witness_ExceptionsArePrecise :
    (launched [0] []).faultRecord = none ∧
      ∃ t, step (launched [0] []) = .next t ∧ t.faultRecord = some ⟨.unknown, 0x1000, none⟩ :=
  ⟨by decide, _, rfl, by decide⟩

theorem witness_ClassesThatOccur :
    { start [] with params := { Params.default with fpEnabled := false } }.params.fpEnabled = false ∧
      (launched [0] []).faultRecord = none ∧
      ∃ t, step (launched [0] []) = .next t ∧ t.faultRecord = some ⟨.unknown, 0x1000, none⟩ :=
  ⟨rfl, by decide, _, rfl, by decide⟩

theorem witness_EsrIsWrittenByExceptionsAlone :
    (launched [0] []).faultRecord = none ∧
      (∃ t, step (launched [0x8B1F03FF] []) = .next t ∧ t.faultRecord = none) ∧
      (∃ t, step (launched [0] []) = .next t ∧ t.faultRecord = some ⟨.unknown, 0x1000, none⟩) ∧
      ∃ t, exec (.add 1 2 3) State.reset = .next t :=
  ⟨by decide, ⟨_, rfl, by decide⟩, ⟨_, rfl, by decide⟩, _, rfl⟩

theorem witness_FlagsWrittenAndRead :
    setsFlags (.add 1 2 3) = false ∧ setsFlags (.fcmps 2 3) = true ∧ (Instr.fcmps 2 3).mnemonic ≠ .bCond ∧
      State.reset.faultRecord = none ∧ (∃ t, exec (.add 1 2 3) State.reset = .next t) ∧
      ∃ t, exec (.fcmps 2 3) State.reset = .next t ∧ t.faultRecord = none :=
  ⟨rfl, rfl, by decide, rfl, ⟨_, rfl⟩, _, rfl, by decide⟩

/-- A store, a register other than a destination, and the bytes on either side of the stored ones. -/
theorem witness_OnlyTheDestinationChanges :
    (∃ t, exec (.stur 1 2 0) (startMapped [(2, 0x2008)]) = .next t) ∧ destX (.stur 1 2 0) ≠ some 1 ∧
      destD (.ldurd 1 2 0) ≠ some 2 ∧ storeRange (.stur 1 2 0) (startMapped [(2, 0x2008)]) = some (0x2008, 8) ∧
      ∀ j, j < 8 → (0x2007 : Word) ≠ 0x2008 + BitVec.ofNat 64 j ∧ (0x2010 : Word) ≠ 0x2008 + BitVec.ofNat 64 j :=
  ⟨⟨_, rfl⟩, by decide, by decide, by decide, by decide⟩

theorem witness_ParametersNeverChange : ∃ t, step (launched [0x8B1F03FF] []) = .next t := ⟨_, rfl⟩

/-- A state with the invariant, its monitor armed, and its next state. -/
theorem witness_EveryStepKeepsTheInvariant :
    State.Inv { launched [0x8B1F03FF] [] with monitor := some 0x2008 } ∧
      ∃ t, step { launched [0x8B1F03FF] [] with monitor := some 0x2008 } = .next t :=
  ⟨⟨by decide, by rintro _ ⟨⟩; decide, by rintro _ ⟨⟩⟩, _, rfl⟩

theorem witness_InvariantHoldsAtReset :
    Launch.legal { Launch.default with params := sevenInstructions, data := [(0x2007, 5)] } := by
  unfold Launch.legal; decide

theorem witness_ResetState : (30 : Reg).toNat < 31 := by decide

/-- A word of an instruction outside the teaching datapath's subset, and a word of no instruction. -/
theorem witness_ImplementedSubset :
    ∀ w ∈ [(0xD61F03C0 : Word32), 0xFFFFFFFF],
      { State.reset with params := { sevenInstructions with text := [w] } }.faultRecord = none ∧
      fetch { sevenInstructions with text := [w] } sevenInstructions.textBase = .word w ∧
      ∀ i, decode w = .ok i → i.mnemonic ∉ sevenInstructions.implemented := by
  intro w hw
  simp only [List.mem_cons, List.not_mem_nil, or_false] at hw
  rcases hw with rfl | rfl
  · exact ⟨rfl, by decide, fun i h => by
      rw [show decode 0xD61F03C0 = .ok (.br 30) by decide] at h; cases h; decide⟩
  · exact ⟨rfl, by decide, fun i h => by
      rw [show decode 0xFFFFFFFF = .error .unallocated by decide] at h; cases h⟩

end Sys2Proof.Tests
end

namespace Sys2Proof.Machine

/-! # AddWithCarry and the overflow table (R27, R28) -/

/-- The sum AddWithCarry tests V against: the exact sum of the signed values (R27). -/
def signedSum (a b : Word) (cin : Bool) : Int := a.toInt + b.toInt + cin.toNat

/-- The result is the exact unsigned sum, modulo 2^64. -/
theorem addWithCarry_toNat (a b : Word) (cin : Bool) :
    (addWithCarry a b cin).1.toNat = (a.toNat + b.toNat + cin.toNat) % 2 ^ 64 :=
  BitVec.toNat_ofNat ..

theorem addWithCarry_n (a b : Word) (cin : Bool) :
    (addWithCarry a b cin).2.n = (addWithCarry a b cin).1.getLsbD 63 :=
  BitVec.msb_eq_getLsbD_last (addWithCarry a b cin).1

theorem addWithCarry_z (a b : Word) (cin : Bool) :
    (addWithCarry a b cin).2.z = true ↔ (addWithCarry a b cin).1 = 0 :=
  beq_iff_eq

theorem addWithCarry_c (a b : Word) (cin : Bool) :
    (addWithCarry a b cin).2.c = true ↔ 2 ^ 64 ≤ a.toNat + b.toNat + cin.toNat :=
  decide_eq_true_iff

theorem addWithCarry_v (a b : Word) (cin : Bool) :
    (addWithCarry a b cin).2.v = true ↔ (addWithCarry a b cin).1.toInt ≠ signedSum a b cin :=
  decide_eq_true_iff

/-- The result is the exact signed sum, modulo 2^64. -/
theorem addWithCarry_toInt (a b : Word) (cin : Bool) :
    (addWithCarry a b cin).1.toInt = (signedSum a b cin).bmod (2 ^ 64) := by
  have key : (addWithCarry a b cin).1 = BitVec.ofInt 64 (signedSum a b cin) := by
    simp only [addWithCarry, signedSum, BitVec.ofInt_add, BitVec.ofInt_toInt, BitVec.ofNat_add,
      BitVec.ofNat_toNat, BitVec.setWidth_eq, BitVec.ofInt_natCast]
  rw [key, BitVec.toInt_ofInt]

/-- V is set exactly where the exact signed sum leaves the signed range. -/
theorem addWithCarry_v_iff_out_of_range (a b : Word) (cin : Bool) :
    (addWithCarry a b cin).2.v = true ↔ ¬ (-2 ^ 63 ≤ signedSum a b cin ∧ signedSum a b cin ≤ 2 ^ 63 - 1) := by
  rw [addWithCarry_v, addWithCarry_toInt, ne_eq, not_iff_not, Int.bmod_eq_iff (by decide)]
  omega

theorem addFlags_fst (a b : Word) : (addFlags a b).1 = a + b := by
  apply BitVec.eq_of_toNat_eq
  rw [addFlags, addWithCarry_toNat, BitVec.toNat_add]
  rfl

theorem subFlags_fst (a b : Word) : (subFlags a b).1 = a - b := by
  apply BitVec.eq_of_toNat_eq
  rw [subFlags, addWithCarry_toNat, BitVec.toNat_sub, BitVec.toNat_not, Bool.toNat_true]
  have := b.isLt
  omega

/-- C of a subtraction is no borrow. -/
theorem subFlags_c_iff (a b : Word) : (subFlags a b).2.c = true ↔ b.toNat ≤ a.toNat := by
  rw [subFlags, addWithCarry_c, BitVec.toNat_not, Bool.toNat_true]
  have := b.isLt
  omega

/-- The exact sum of `a + ~b + 1` is the difference: `~b` denotes `-b - 1`. -/
theorem signedSum_not (a b : Word) : signedSum a (~~~b) true = a.toInt - b.toInt := by
  have hnot : (~~~b).toInt = -b.toInt - 1 := by
    have := b.isLt
    simp only [BitVec.toInt_eq_toNat_cond, BitVec.toNat_not]
    split <;> split <;> omega
  rw [signedSum, hnot, Bool.toNat_true]
  omega

theorem addFlags_v_iff (a b : Word) :
    (addFlags a b).2.v = true ↔ ¬ (-2 ^ 63 ≤ a.toInt + b.toInt ∧ a.toInt + b.toInt ≤ 2 ^ 63 - 1) := by
  rw [addFlags, addWithCarry_v_iff_out_of_range, signedSum, Bool.toNat_false, Nat.cast_zero, add_zero]

theorem subFlags_v_iff (a b : Word) :
    (subFlags a b).2.v = true ↔ ¬ (-2 ^ 63 ≤ a.toInt - b.toInt ∧ a.toInt - b.toInt ≤ 2 ^ 63 - 1) := by
  rw [subFlags, addWithCarry_v_iff_out_of_range, signedSum_not]

/-- Settles O9: each flag is the test R27 writes, and a subtraction's exact sums are the differences. -/
theorem addWithCarryAndSubtraction : Obligations.AddWithCarryAndSubtraction := fun a b cin =>
  ⟨⟨addWithCarry_toNat a b cin, addWithCarry_n a b cin, addWithCarry_z a b cin, addWithCarry_c a b cin,
      addWithCarry_v a b cin⟩,
    rfl, rfl, addFlags_fst a b, subFlags_fst a b, subFlags_c_iff a b, subFlags_v_iff a b⟩

/-- R28's table for AddWithCarry with either carry: the operands have one sign and the result has the other. -/
theorem addWithCarry_v_iff_signs (a b : Word) (cin : Bool) :
    (addWithCarry a b cin).2.v = true ↔
      (a.msb = false ∧ b.msb = false ∧ (addWithCarry a b cin).1.msb = true) ∨
        (a.msb = true ∧ b.msb = true ∧ (addWithCarry a b cin).1.msb = false) := by
  rw [addWithCarry_v_iff_out_of_range]
  simp only [BitVec.msb_eq_toInt, decide_eq_true_iff, decide_eq_false_iff_not, addWithCarry_toInt]
  have ha := a.le_toInt
  have ha' := a.toInt_lt
  have hb := b.le_toInt
  have hb' := b.toInt_lt
  have hc := cin.toNat_le
  rw [Int.bmod_def, signedSum]
  split <;> omega

/-- Settles O10: the table of AddWithCarry, in which a subtraction's second operand `~b` has the other sign than `b`. -/
theorem overflowIsTheSignTable : Obligations.OverflowIsTheSignTable := by
  intro a b
  have hadd := addWithCarry_v_iff_signs a b false
  have hsub := addWithCarry_v_iff_signs a (~~~b) true
  rw [← addFlags, addFlags_fst] at hadd
  rw [← subFlags, subFlags_fst] at hsub
  exact ⟨hadd, by simpa [BitVec.msb_not] using hsub⟩

end Sys2Proof.Machine

namespace Sys2Proof.Machine

/-! # Register 31 and the general registers' frame (R22) -/

/-! ## Taking an exception -/

/-- The EC field is the number of the class (R310). -/
theorem esrOf_ec (cls : ExcClass) (iss : BitVec 25) : (esrOf cls iss).extractLsb' 26 6 = cls.number := by
  rw [esrOf, BitVec.extractLsb'_append_eq_of_le (by decide), BitVec.extractLsb'_append_eq_of_le (by decide)]
  exact BitVec.extractLsb'_eq_self

/-- The IL bit is 1 (R310). -/
theorem esrOf_il (cls : ExcClass) (iss : BitVec 25) : (esrOf cls iss).extractLsb' 25 1 = 1 := by
  rw [esrOf, BitVec.extractLsb'_append_eq_of_le (by decide), BitVec.extractLsb'_append_eq_of_add_le (by decide)]
  exact BitVec.extractLsb'_eq_self

/-- Taking an exception changes what R310 says and nothing a program can read. -/
theorem State.takeException_raised (s : State) (e : Exc) : Raised s (s.takeException e) e.cls e.info where
  record := rfl
  ec := esrOf_ec ..
  il := esrOf_il ..
  monitor := rfl
  pc := rfl
  x _ := rfl
  flags := rfl
  d _ := rfl
  mem _ := rfl
  params := rfl

/-! ## The general registers through the shared operations -/

/-- Taking a free value changes no general register. -/
theorem State.readX_of_eq_or_draw {s t : State} (h : t = s ∨ t = s.draw.2) (r : Reg) : t.readX r = s.readX r := by
  rcases h with rfl | rfl
  · rfl
  · exact s.readX_draw r

@[simp] theorem State.readX_resolve {α : Type} (s : State) (c : Choice α) (g : Word → α) (r : Reg) :
    (s.resolve c g).2.readX r = s.readX r :=
  State.readX_of_eq_or_draw (s.resolve_state c g) r

@[simp] theorem State.readX_spurious (s : State) (r : Reg) : s.spurious.2.readX r = s.readX r := by
  rcases s.spurious_cases with ⟨-, h⟩ | ⟨-, h⟩
  · rw [h]
  · rw [h, State.readX_draw]

@[simp] theorem readX_fpArith32 (op : FpOp) (a b : Word32) (s : State) (r : Reg) :
    (fpArith32 op a b s).2.readX r = s.readX r :=
  State.readX_of_eq_or_draw (fpArith32_state op a b s) r

@[simp] theorem readX_fpArith64 (op : FpOp) (a b : Word) (s : State) (r : Reg) :
    (fpArith64 op a b s).2.readX r = s.readX r :=
  State.readX_of_eq_or_draw (fpArith64_state op a b s) r

@[simp] theorem readX_fcmpFlags (rel : FpRel) (s : State) (r : Reg) :
    (fcmpFlags rel s).2.readX r = s.readX r :=
  State.readX_of_eq_or_draw (fcmpFlags_state rel s) r

/-- A register reads as before where another is written. -/
theorem State.readX_writeX_ne (s : State) {r rd : Reg} (h : r ≠ rd) (v : Word) :
    (s.writeX rd v).readX r = s.readX r := by
  rw [State.readX_writeX, if_neg fun h' => h h'.1]

/-- A result that is a next state, in which register `r` reads as it does in `s`. -/
def KeepsX (s : State) (r : Reg) (run : Result) : Prop := ∃ t, run = .next t ∧ t.readX r = s.readX r

theorem keepsX_next {s t : State} {r : Reg} (h : t.readX r = s.readX r) : KeepsX s r (.next t) := ⟨t, rfl, h⟩

theorem keepsX_raise (s : State) (r : Reg) (e : Exc) : KeepsX s r (s.raise e) := keepsX_next rfl

theorem keepsX_branchIf (s : State) (r : Reg) (taken : Bool) (offset : Word) :
    KeepsX s r (s.branchIf taken offset) :=
  ⟨_, s.branchIf_eq .., rfl⟩

theorem keepsX_withFp {s : State} {r : Reg} {run : Result} (h : KeepsX s r run) : KeepsX s r (s.withFp run) := by
  rcases s.withFp_cases run with ⟨-, heq⟩ | ⟨-, heq⟩
  · rwa [heq]
  · rw [heq]; exact keepsX_raise ..

theorem keepsX_loadThen {s : State} {r : Reg} {use : Word → State} (h : ∀ v, (use v).readX r = s.readX r)
    (exclusive : Bool) (addr : Word) (n : Nat) : KeepsX s r (s.loadThen exclusive addr n use) := by
  rcases s.loadThen_cases exclusive addr n use with ⟨-, heq⟩ | ⟨-, heq⟩
  · exact ⟨_, heq, h _⟩
  · exact ⟨_, heq, rfl⟩

theorem keepsX_storeThen (s : State) (r : Reg) (addr : Word) (n : Nat) (v : Word) :
    KeepsX s r (s.storeThen addr n v) := by
  rcases s.storeThen_cases addr n v with ⟨-, heq⟩ | ⟨-, heq⟩ <;> exact ⟨_, heq, rfl⟩

theorem keepsX_fpSingle (op : FpOp) (rd rn rm : Reg) (s : State) (r : Reg) : KeepsX s r (fpSingle op rd rn rm s) :=
  keepsX_withFp (keepsX_next (by simp))

theorem keepsX_fpDouble (op : FpOp) (rd rn rm : Reg) (s : State) (r : Reg) : KeepsX s r (fpDouble op rd rn rm s) :=
  keepsX_withFp (keepsX_next (by simp))

theorem keepsX_fpCompareInto (rel : FpRel) (s : State) (r : Reg) : KeepsX s r (fpCompareInto rel s) :=
  keepsX_withFp (keepsX_next (by simp))

/-! ### The meanings with a destination -/

section
variable {r rd : Reg} (h : r ≠ rd)
include h

theorem keepsX_finishX (s : State) (v : Word) : KeepsX s r (s.finishX rd v) :=
  keepsX_next (s.readX_writeX_ne h v)

theorem keepsX_finishXFlags (s : State) (res : Word × Flags) : KeepsX s r (s.finishXFlags rd res) :=
  keepsX_next (s.readX_writeX_ne h res.1)

theorem keepsX_finishLogical (res : Word) (s : State) : KeepsX s r (finishLogical rd res s) :=
  keepsX_next (by simp [State.readX_writeX_ne _ h])

theorem keepsX_finishChoice (c : Choice Word) (s : State) : KeepsX s r (finishChoice rd c s) :=
  keepsX_next (by simp [State.readX_writeX_ne _ h])

theorem keepsX_execSdiv (rn rm : Reg) (s : State) : KeepsX s r (execSdiv rd rn rm s) := by
  unfold execSdiv
  split
  · exact keepsX_finishChoice h ..
  · split
    · exact keepsX_finishChoice h ..
    · exact keepsX_finishX h ..

theorem keepsX_execUdiv (rn rm : Reg) (s : State) : KeepsX s r (execUdiv rd rn rm s) := by
  unfold execUdiv
  split
  · exact keepsX_finishChoice h ..
  · exact keepsX_finishX h ..

theorem keepsX_execStxr (rt rn : Reg) (s : State) : KeepsX s r (execStxr rt rd rn s) := by
  rcases execStxr_cases rt rd rn s with ⟨-, heq⟩ | ⟨-, -, heq⟩ | ⟨-, -, -, -, heq⟩ | ⟨-, -, -, -, heq⟩ <;>
    exact ⟨_, heq, by simp [State.readX_writeX_ne _ h]⟩

end

/-- An instruction changes no general register but its destination. -/
theorem exec_keepsX (i : Instr) (s : State) {r : Reg} (h : destX i ≠ some r) : KeepsX s r (exec i s) := by
  have hne {rd : Reg} (hd : destX i = some rd) : r ≠ rd := fun e => h (e ▸ hd)
  cases i with
  | add | addi | sub | subi | and | andi | orr | orri | eor | eori | lsl | lsr | movz | movk | mul | smulh | umulh =>
    exact keepsX_finishX (hne rfl) ..
  | adds | addis | subs | subis => exact keepsX_finishXFlags (hne rfl) ..
  | ands | andis => exact keepsX_finishLogical (hne rfl) ..
  | sdiv => exact keepsX_execSdiv (hne rfl) ..
  | udiv => exact keepsX_execUdiv (hne rfl) ..
  | bl => exact keepsX_next (s.readX_writeX_ne (hne rfl) _)
  | b | br => exact keepsX_next rfl
  | bEq | bNe | bHs | bLo | bMi | bPl | bVs | bVc | bHi | bLs | bGe | bLt | bGt | bLe | cbz | cbnz =>
    exact keepsX_branchIf ..
  | ldur | ldurb | ldurh | ldursw | ldxr =>
    simp only [exec, execLdur, execLdurb, execLdurh, execLdursw, execLdxr]
    exact keepsX_loadThen (fun v => by simp [State.readX_writeX_ne _ (hne rfl)]) ..
  | stur | sturb | sturh | sturw => exact keepsX_storeThen ..
  | stxr => exact keepsX_execStxr (hne rfl) ..
  | fadds | fsubs | fmuls | fdivs => exact keepsX_fpSingle ..
  | faddd | fsubd | fmuld | fdivd => exact keepsX_fpDouble ..
  | fcmps | fcmpd => exact keepsX_fpCompareInto ..
  | ldurs => exact keepsX_withFp (keepsX_loadThen (fun v => s.readX_writeS ..) ..)
  | ldurd => exact keepsX_withFp (keepsX_loadThen (fun v => s.readX_writeD ..) ..)
  | sturs | sturd => exact keepsX_withFp (keepsX_storeThen ..)

/-- An instruction whose destination is XZR changes no general register: XZR reads 0, and the others are not its
destination. -/
theorem exec_readX_of_destX_xzr {i : Instr} {s t : State} (hd : destX i = some 31) (h : exec i s = .next t)
    (r : Reg) : t.readX r = s.readX r := by
  by_cases hr : r = 31
  · subst hr
    exact t.readX_xzr.trans s.readX_xzr.symm
  · obtain ⟨t', ht', hkeeps⟩ := exec_keepsX i s (r := r) fun e => hr (Option.some.inj (e.symm.trans hd))
    cases ht'.symm.trans h
    exact hkeeps

theorem exec_adds_flags (rd rn rm : Reg) (s : State) :
    ∃ t, exec (.adds rd rn rm) s = .next t ∧ t.flags = (addFlags (s.readX rn) (s.readX rm)).2 :=
  ⟨_, rfl, rfl⟩

/-- An LDXR that raises no Data Abort arms the monitor (R211). -/
theorem exec_ldxr_monitor (rt rn : Reg) (addr : BitVec 9) {s : State}
    (h : AccessAllowed s.params true (s.dAddr rn addr) 8) :
    ∃ t, exec (.ldxr rt rn addr) s = .next t ∧ t.monitor = some (s.dAddr rn addr) := by
  rcases s.loadThen_cases true (s.dAddr rn addr) 8 fun v => (s.setMonitor (some (s.dAddr rn addr))).writeX rt v
    with ⟨-, heq⟩ | ⟨hnot, -⟩
  · exact ⟨_, heq, by simp⟩
  · exact absurd h hnot

/-- A load whose access is not allowed takes a Data Abort at the address of the access (R304, log entry 22). -/
theorem loadThen_raised {s : State} {exclusive : Bool} {addr : Word} {n : Nat}
    (h : ¬ AccessAllowed s.params exclusive addr n) (use : Word → State) :
    ∃ t, s.loadThen exclusive addr n use = .next t ∧ Raised s t .dataAbort (some addr) := by
  rcases s.loadThen_cases exclusive addr n use with ⟨hok, -⟩ | ⟨-, heq⟩
  · exact absurd hok h
  · exact ⟨_, heq, s.takeException_raised _⟩

/-- Settles O7: register 31 discards the write, and each meaning's other effects do not look at its destination. -/
theorem registerThirtyOne : Obligations.RegisterThirtyOne :=
  ⟨fun s v => ⟨s.readX_xzr, s.writeX_xzr v⟩,
    fun _ _ _ hd h => exec_readX_of_destX_xzr hd h,
    fun s rn rm => exec_adds_flags 31 rn rm s,
    fun _ rn addr h => exec_ldxr_monitor 31 rn addr h,
    fun s _ _ h => loadThen_raised h (s.writeX 31)⟩

end Sys2Proof.Machine

namespace Sys2Proof.Machine

/-! # Who writes and who reads the flags (R25) -/

/-! ## The updates commute with a write of the flags

One spelling: a write of the flags goes outermost. -/

@[simp] theorem State.setFlags_self (s : State) : s.setFlags s.flags = s := rfl
@[simp] theorem State.setFlags_setFlags (s : State) (f g : Flags) : (s.setFlags f).setFlags g = s.setFlags g := rfl
@[simp] theorem State.setPc_setFlags (s : State) (f : Flags) (t : Word) :
    (s.setFlags f).setPc t = (s.setPc t).setFlags f := rfl
@[simp] theorem State.nextPc_setFlags (s : State) (f : Flags) : (s.setFlags f).nextPc = s.nextPc.setFlags f := rfl
@[simp] theorem State.setMonitor_setFlags (s : State) (f : Flags) (m : Option Word) :
    (s.setFlags f).setMonitor m = (s.setMonitor m).setFlags f := rfl
@[simp] theorem State.storeMem_setFlags (s : State) (f : Flags) (a : Word) (n : Nat) (v : Word) :
    (s.setFlags f).storeMem a n v = (s.storeMem a n v).setFlags f := rfl
@[simp] theorem State.writeD_setFlags (s : State) (f : Flags) (i : Reg) (v : Word) :
    (s.setFlags f).writeD i v = (s.writeD i v).setFlags f := rfl
@[simp] theorem State.writeS_setFlags (s : State) (f : Flags) (i : Reg) (v : Word32) :
    (s.setFlags f).writeS i v = (s.writeS i v).setFlags f := rfl
@[simp] theorem State.draw_setFlags (s : State) (f : Flags) : (s.setFlags f).draw.2 = s.draw.2.setFlags f := rfl
@[simp] theorem State.takeException_setFlags (s : State) (f : Flags) (e : Exc) :
    (s.setFlags f).takeException e = (s.takeException e).setFlags f := rfl
@[simp] theorem State.writeX_setFlags (s : State) (f : Flags) (r : Reg) (v : Word) :
    (s.setFlags f).writeX r v = (s.writeX r v).setFlags f := by
  unfold State.writeX; split <;> rfl

/-! ## What the operations compute is the same whatever the flags are -/

@[simp] theorem State.dAddr_setFlags (s : State) (f : Flags) (rn : Reg) (addr : BitVec 9) :
    (s.setFlags f).dAddr rn addr = s.dAddr rn addr := rfl
@[simp] theorem State.readS_setFlags (s : State) (f : Flags) (i : Reg) : (s.setFlags f).readS i = s.readS i := rfl

/-- The flags written into the state half of an answer. -/
def sndSetFlags {α : Type} (f : Flags) (r : α × State) : α × State := (r.1, r.2.setFlags f)

@[simp] theorem sndSetFlags_fst {α : Type} (f : Flags) (r : α × State) : (sndSetFlags f r).1 = r.1 := rfl
@[simp] theorem sndSetFlags_snd {α : Type} (f : Flags) (r : α × State) : (sndSetFlags f r).2 = r.2.setFlags f := rfl

@[simp] theorem State.resolve_setFlags {α : Type} (s : State) (f : Flags) (c : Choice α) (g : Word → α) :
    (s.setFlags f).resolve c g = sndSetFlags f (s.resolve c g) := by
  cases c <;> rfl

@[simp] theorem State.spurious_setFlags (s : State) (f : Flags) :
    (s.setFlags f).spurious = sndSetFlags f s.spurious := by
  unfold State.spurious; rw [State.setFlags_params]; split <;> rfl

theorem nanResult32_setFlags (policy : NanPolicy) (s : State) (f : Flags) :
    nanResult32 policy (s.setFlags f) = sndSetFlags f (nanResult32 policy s) := by
  cases policy <;> rfl

theorem nanResult64_setFlags (policy : NanPolicy) (s : State) (f : Flags) :
    nanResult64 policy (s.setFlags f) = sndSetFlags f (nanResult64 policy s) := by
  cases policy <;> rfl

@[simp] theorem fpArith32_setFlags (op : FpOp) (a b : Word32) (s : State) (f : Flags) :
    fpArith32 op a b (s.setFlags f) = sndSetFlags f (fpArith32 op a b s) := by
  unfold fpArith32
  rw [State.setFlags_params]
  split
  · rfl
  · split
    · rfl
    · exact nanResult32_setFlags ..

@[simp] theorem fpArith64_setFlags (op : FpOp) (a b : Word) (s : State) (f : Flags) :
    fpArith64 op a b (s.setFlags f) = sndSetFlags f (fpArith64 op a b s) := by
  unfold fpArith64
  rw [State.setFlags_params]
  split
  · rfl
  · split
    · rfl
    · exact nanResult64_setFlags ..

@[simp] theorem fcmpFlags_setFlags (rel : FpRel) (s : State) (f : Flags) :
    fcmpFlags rel (s.setFlags f) = sndSetFlags f (fcmpFlags rel s) := by
  unfold fcmpFlags
  split
  · rfl
  · exact State.resolve_setFlags ..

/-! ## Meanings that do not read the flags and keep them -/

/-- The flags written into a next state. -/
def withFlags (f : Flags) : Result → Result
  | .next t => .next (t.setFlags f)
  | .fault r => .fault r
  | .refused r => .refused r

@[simp] theorem withFlags_next (f : Flags) (t : State) : withFlags f (.next t) = .next (t.setFlags f) := rfl

/-- A floating-point instruction reads no flags where its body reads none. -/
theorem State.withFp_setFlags (s : State) (f : Flags) {run run' : Result} (h : run' = withFlags f run) :
    (s.setFlags f).withFp run' = withFlags f (s.withFp run) := by
  subst h
  unfold State.withFp
  rw [State.setFlags_params]
  split <;> rfl

theorem State.loadThen_setFlags (s : State) (f : Flags) (exclusive : Bool) (addr : Word) (n : Nat)
    {use use' : Word → State} (h : ∀ v, use' v = (use v).setFlags f) :
    (s.setFlags f).loadThen exclusive addr n use' = withFlags f (s.loadThen exclusive addr n use) := by
  unfold State.loadThen
  rw [State.setFlags_params, State.setFlags_mem, h]
  split <;> rfl

theorem State.storeThen_setFlags (s : State) (f : Flags) (addr : Word) (n : Nat) (v : Word) :
    (s.setFlags f).storeThen addr n v = withFlags f (s.storeThen addr n v) := by
  unfold State.storeThen
  rw [State.setFlags_params]
  split <;> rfl

theorem State.branchIf_setFlags (s : State) (f : Flags) (taken : Bool) (offset : Word) :
    (s.setFlags f).branchIf taken offset = withFlags f (s.branchIf taken offset) := by
  cases taken <;> rfl

theorem State.finishX_setFlags (s : State) (f : Flags) (rd : Reg) (v : Word) :
    (s.setFlags f).finishX rd v = withFlags f (s.finishX rd v) := by
  simp

theorem finishChoice_setFlags (rd : Reg) (c : Choice Word) (s : State) (f : Flags) :
    finishChoice rd c (s.setFlags f) = withFlags f (finishChoice rd c s) := by
  simp [finishChoice]

theorem fpSingle_setFlags (op : FpOp) (rd rn rm : Reg) (s : State) (f : Flags) :
    fpSingle op rd rn rm (s.setFlags f) = withFlags f (fpSingle op rd rn rm s) :=
  s.withFp_setFlags f (by simp)

theorem fpDouble_setFlags (op : FpOp) (rd rn rm : Reg) (s : State) (f : Flags) :
    fpDouble op rd rn rm (s.setFlags f) = withFlags f (fpDouble op rd rn rm s) :=
  s.withFp_setFlags f (by simp)

theorem execBl_setFlags (br : BitVec 26) (s : State) (f : Flags) :
    execBl br (s.setFlags f) = withFlags f (execBl br s) := by
  simp [execBl]

theorem execSdiv_setFlags (rd rn rm : Reg) (s : State) (f : Flags) :
    execSdiv rd rn rm (s.setFlags f) = withFlags f (execSdiv rd rn rm s) := by
  simp only [execSdiv, State.readX_setFlags, State.setFlags_params, finishChoice_setFlags, State.finishX_setFlags,
    apply_ite (withFlags f)]

theorem execUdiv_setFlags (rd rn rm : Reg) (s : State) (f : Flags) :
    execUdiv rd rn rm (s.setFlags f) = withFlags f (execUdiv rd rn rm s) := by
  simp only [execUdiv, State.readX_setFlags, State.setFlags_params, finishChoice_setFlags, State.finishX_setFlags,
    apply_ite (withFlags f)]

theorem execStxr_setFlags (rt rm rn : Reg) (s : State) (f : Flags) :
    execStxr rt rm rn (s.setFlags f) = withFlags f (execStxr rt rm rn s) := by
  simp [execStxr, finishStxr, apply_ite (withFlags f)]

/-- An instruction that neither writes the flags nor is a B.cond does the same whatever the flags are, and leaves
them (R25). -/
theorem exec_setFlags (i : Instr) (hset : setsFlags i = false) (hcond : i.mnemonic ≠ .bCond) (s : State) (f : Flags) :
    exec i (s.setFlags f) = withFlags f (exec i s) := by
  cases i with
  | add | addi | sub | subi | and | andi | orr | orri | eor | eori | lsl | lsr | movz | movk | mul | smulh | umulh =>
    exact s.finishX_setFlags ..
  | adds | addis | subs | subis | ands | andis | fcmps | fcmpd => cases hset
  | sdiv => exact execSdiv_setFlags ..
  | udiv => exact execUdiv_setFlags ..
  | b | br => rfl
  | bl => exact execBl_setFlags ..
  | cbz | cbnz => exact s.branchIf_setFlags ..
  | bEq | bNe | bHs | bLo | bMi | bPl | bVs | bVc | bHi | bLs | bGe | bLt | bGt | bLe => exact absurd rfl hcond
  | ldur | ldurb | ldurh | ldursw | ldxr =>
    simp only [exec, execLdur, execLdurb, execLdurh, execLdursw, execLdxr, State.dAddr_setFlags]
    exact s.loadThen_setFlags f _ _ _ fun v => by simp
  | stur | sturb | sturh | sturw => exact s.storeThen_setFlags ..
  | stxr => exact execStxr_setFlags ..
  | fadds | fsubs | fmuls | fdivs => exact fpSingle_setFlags ..
  | faddd | fsubd | fmuld | fdivd => exact fpDouble_setFlags ..
  | ldurs | ldurd => exact s.withFp_setFlags f (s.loadThen_setFlags f _ _ _ fun v => rfl)
  | sturs | sturd => exact s.withFp_setFlags f (s.storeThen_setFlags ..)

/-! ## Meanings that write all four flags -/

theorem State.finishXFlags_setFlags (s : State) (f : Flags) (rd : Reg) (r : Word × Flags) :
    (s.setFlags f).finishXFlags rd r = s.finishXFlags rd r := by
  simp

theorem finishLogical_setFlags (rd : Reg) (r : Word) (s : State) (f : Flags) :
    finishLogical rd r (s.setFlags f) = finishLogical rd r s := by
  simp [finishLogical]

/-- A compare writes its four flags over whatever they were, or takes an exception. -/
theorem fpCompareInto_setFlags (rel : FpRel) (s : State) (f : Flags) :
    fpCompareInto rel (s.setFlags f) = fpCompareInto rel s ∨
      ∃ e, fpCompareInto rel s = s.raise e ∧ fpCompareInto rel (s.setFlags f) = (s.setFlags f).raise e := by
  cases h : s.params.fpEnabled with
  | true => exact .inl (by simp [fpCompareInto, State.withFp, h])
  | false => exact .inr ⟨.simdDisabled, by simp [fpCompareInto, State.withFp, h]⟩

/-- An instruction that writes the flags does the same whatever they were, unless it takes an exception (R25). -/
theorem exec_setFlags_of_setsFlags (i : Instr) (hset : setsFlags i = true) (s : State) (f : Flags) :
    exec i (s.setFlags f) = exec i s ∨
      ∃ e, exec i s = s.raise e ∧ exec i (s.setFlags f) = (s.setFlags f).raise e := by
  cases i with
  | adds | addis | subs | subis => exact .inl (s.finishXFlags_setFlags ..)
  | ands | andis => exact .inl (finishLogical_setFlags ..)
  | fcmps | fcmpd => exact fpCompareInto_setFlags ..
  | _ => cases hset

/-- A B.cond writes the pc alone. -/
theorem exec_flags_of_bCond (i : Instr) (hcond : i.mnemonic = .bCond) (s : State) :
    ∃ pc, exec i s = .next (s.setPc pc) := by
  cases i with
  | bEq | bNe | bHs | bLo | bMi | bPl | bVs | bVc | bHi | bLs | bGe | bLt | bGt | bLe =>
    exact ⟨_, s.branchIf_eq ..⟩
  | _ => cases hcond

/-- Only the flag-setting instructions write the flags: the others commute with writing back the flags there were. -/
theorem exec_keeps_flags (i : Instr) (hset : setsFlags i = false) {s t : State} (h : exec i s = .next t) :
    t.flags = s.flags := by
  by_cases hcond : i.mnemonic = .bCond
  · obtain ⟨pc, hpc⟩ := exec_flags_of_bCond i hcond s
    cases hpc.symm.trans h
    rfl
  · have hself := exec_setFlags i hset hcond s s.flags
    rw [State.setFlags_self, h] at hself
    injection hself with ht
    rw [ht, State.setFlags_flags]

/-- Settles O54, by whether the instruction writes the flags: if not, writing them commutes with it; if it does, it
writes over them or takes an exception. -/
theorem flagsWrittenAndRead : Obligations.FlagsWrittenAndRead := by
  intro i s t f h
  refine ⟨fun hset => exec_keeps_flags i hset h, fun hcond => ?_⟩
  cases hset : setsFlags i with
  | false =>
    refine ⟨f, ?_, fun _ => rfl, nofun⟩
    rw [exec_setFlags i hset hcond, h, withFlags_next]
  | true =>
    rcases exec_setFlags_of_setsFlags i hset s f with hsame | ⟨e, hraise, hraise'⟩
    · exact ⟨t.flags, by rw [hsame, h, State.setFlags_self], nofun, fun _ _ _ => rfl⟩
    · cases hraise.symm.trans h
      exact ⟨f, hraise', fun _ => rfl, fun _ _ hnone => nomatch hnone⟩

end Sys2Proof.Machine

namespace Sys2Proof.Machine

/-! # Data memory: the value of an access and the bytes it lies in (R52, R53, R55) -/

/-! ## Words and their bytes -/

/-- Bit `i` of a joined word is bit `i % 8` of its byte number `i / 8`, counted from the least significant. -/
theorem getLsbD_joinBE (bs : List Byte) :
    ∀ i, i < 64 → (joinBE bs).getLsbD i = (bs.reverse.getD (i / 8) 0).getLsbD (i % 8) := by
  induction bs using List.reverseRecOn with
  | nil => intro i _; simp [joinBE]
  | append_singleton bs b ih =>
    intro i hi
    have hjoin : joinBE (bs ++ [b]) = (joinBE bs <<< 8) ||| b.setWidth 64 := by simp [joinBE]
    rw [hjoin, List.reverse_append, List.reverse_singleton, List.singleton_append]
    by_cases h8 : i < 8
    · simp [h8, hi, Nat.div_eq_of_lt h8, Nat.mod_eq_of_lt h8]
    · have hdiv : i / 8 = (i - 8) / 8 + 1 := by omega
      have hmod : i % 8 = (i - 8) % 8 := by omega
      rw [hdiv, hmod, List.getD_cons_succ, ← ih (i - 8) (by omega)]
      simp [h8, hi, BitVec.getLsbD_of_ge b i (by omega), -BitVec.getLsbD_eq_getElem]

/-- Byte `k` of a joined word, counted from the least significant. -/
theorem extractLsb'_joinBE (bs : List Byte) {k : Nat} (hk : k < 8) :
    (joinBE bs).extractLsb' (8 * k) 8 = bs.reverse.getD k 0 := by
  apply BitVec.eq_of_getLsbD_eq
  intro i hi
  rw [BitVec.getLsbD_extractLsb', getLsbD_joinBE bs _ (by omega)]
  have hdiv : (8 * k + i) / 8 = k := by omega
  have hmod : (8 * k + i) % 8 = i := by omega
  simp [hi, hdiv, hmod]

/-- A word joined of `n` bytes is an `n`-byte value. -/
theorem joinBE_lt (bs : List Byte) : (joinBE bs).toNat < 2 ^ (8 * bs.length) := by
  refine Nat.lt_pow_two_of_testBit _ fun i hi => ?_
  rw [BitVec.testBit_toNat]
  by_cases h64 : i < 64
  · rw [getLsbD_joinBE bs i h64, List.getD_eq_default _ _ (by rw [List.length_reverse]; omega)]
    exact BitVec.getLsbD_zero
  · exact BitVec.getLsbD_of_ge _ _ (by omega)

@[simp] theorem length_bytesBE (n : Nat) (v : Word) : (bytesBE n v).length = n := by
  induction n with
  | zero => rfl
  | succ n ih => simp [bytesBE, ih]

theorem getElem_bytesBE (v : Word) (n j : Nat) (h : j < (bytesBE n v).length) :
    (bytesBE n v)[j] = v.extractLsb' (8 * (n - 1 - j)) 8 := by
  induction n generalizing j with
  | zero => cases h
  | succ n ih =>
    cases j with
    | zero => rfl
    | succ j =>
      have hidx : n - 1 - j = n + 1 - 1 - (j + 1) := by omega
      simp only [bytesBE, List.getElem_cons_succ]
      rw [ih j (Nat.lt_of_succ_lt_succ h), hidx]

@[simp] theorem length_arrange (o : ByteOrder) (bs : List Byte) : (o.arrange bs).length = bs.length := by
  cases o with
  | big => rfl
  | little => exact List.length_reverse

/-- The bytes of a datum in the order of their addresses are its bytes by place (R53). -/
theorem getElem_arrange_bytesBE (o : ByteOrder) (v : Word) {n j : Nat} (hj : j < n)
    (h : j < (o.arrange (bytesBE n v)).length) : (o.arrange (bytesBE n v))[j] = byteOf o n v j := by
  cases o with
  | big => exact getElem_bytesBE ..
  | little =>
    have hidx : n - 1 - (n - 1 - j) = j := by omega
    simp [ByteOrder.arrange, getElem_bytesBE, byteOf, hidx]

/-- The byte at a place of the datum that bytes in the order of their addresses make (R52). -/
theorem byteOf_joinBE_arrange (o : ByteOrder) (bs : List Byte) (h8 : bs.length ≤ 8) {j : Nat} (hj : j < bs.length) :
    byteOf o bs.length (joinBE (o.arrange bs)) j = bs[j] := by
  cases o with
  | big =>
    have hidx : bs.length - 1 - (bs.length - 1 - j) = j := by omega
    rw [byteOf, extractLsb'_joinBE _ (by omega), ByteOrder.arrange,
      List.getD_eq_getElem _ _ (by rw [List.length_reverse]; omega), List.getElem_reverse]
    simp only [hidx]
  | little =>
    rw [byteOf, extractLsb'_joinBE _ (by omega), ByteOrder.arrange, List.reverse_reverse, List.getD_eq_getElem _ _ hj]

/-- Bit `i` of an `n`-byte datum is a bit of the byte at one of its `n` places. -/
theorem exists_byteOf_getLsbD (o : ByteOrder) {n i : Nat} (hi : i < 8 * n) :
    ∃ j, j < n ∧ ∀ v : Word, (byteOf o n v j).getLsbD (i % 8) = v.getLsbD i := by
  have hmod : i % 8 < 8 := Nat.mod_lt _ (by decide)
  cases o with
  | big =>
    have hidx : 8 * (n - 1 - (n - 1 - i / 8)) + i % 8 = i := by omega
    exact ⟨n - 1 - i / 8, by omega, fun v => by simp [byteOf, hmod, hidx]⟩
  | little =>
    have hidx : 8 * (i / 8) + i % 8 = i := by omega
    exact ⟨i / 8, by omega, fun v => by simp [byteOf, hmod, hidx]⟩

/-- An `n`-byte value is determined by its `n` bytes. -/
theorem eq_of_byteOf_eq (o : ByteOrder) {n : Nat} {v w : Word} (hv : v.toNat < 2 ^ (8 * n))
    (hw : w.toNat < 2 ^ (8 * n)) (h : ∀ j, j < n → byteOf o n v j = byteOf o n w j) : v = w := by
  apply BitVec.eq_of_getLsbD_eq
  intro i _
  by_cases hi : i < 8 * n
  · obtain ⟨j, hj, hbit⟩ := exists_byteOf_getLsbD o hi
    rw [← hbit v, ← hbit w, h j hj]
  · have hpow : 2 ^ (8 * n) ≤ 2 ^ i := Nat.pow_le_pow_right (by decide) (by omega)
    rw [← BitVec.testBit_toNat, ← BitVec.testBit_toNat, Nat.testBit_lt_two_pow (hv.trans_le hpow),
      Nat.testBit_lt_two_pow (hw.trans_le hpow)]

/-! ## Parts of a datum -/

/-- The least significant byte among those at places `d` to `d + k - 1` of an `n`-byte datum, counted from the least
significant of the datum. -/
def partStart (o : ByteOrder) (n d k : Nat) : Nat :=
  match o with
  | .big => n - (d + k)
  | .little => d

/-- The `k` bytes of an `n`-byte datum from place `d` on, as a `k`-byte value of its own. -/
def partOf (o : ByteOrder) (n : Nat) (v : Word) (d k : Nat) : Word :=
  (v.extractLsb' (8 * partStart o n d k) (8 * k)).setWidth 64

theorem partOf_lt (o : ByteOrder) (n : Nat) (v : Word) (d k : Nat) : (partOf o n v d k).toNat < 2 ^ (8 * k) := by
  rw [partOf, BitVec.toNat_setWidth]
  exact (Nat.mod_le _ _).trans_lt (BitVec.isLt _)

/-- A byte of a part is the byte of the whole datum at the same address. -/
theorem byteOf_partOf (o : ByteOrder) {n d k j : Nat} (v : Word) (hn : n ≤ 8) (hdk : d + k ≤ n) (hj : j < k) :
    byteOf o k (partOf o n v d k) j = byteOf o n v (d + j) := by
  apply BitVec.eq_of_getLsbD_eq
  intro i hi
  cases o with
  | big =>
    have hbit : 8 * (n - (d + k)) + (8 * (k - 1 - j) + i) = 8 * (n - 1 - (d + j)) + i := by omega
    have hlt : 8 * (k - 1 - j) + i < 64 ∧ 8 * (k - 1 - j) + i < 8 * k := by omega
    simp [byteOf, partOf, partStart, hi, hbit, hlt]
  | little =>
    have hbit : 8 * d + (8 * j + i) = 8 * (d + j) + i := by omega
    have hlt : 8 * j + i < 64 ∧ 8 * j + i < 8 * k := by omega
    simp [byteOf, partOf, partStart, hi, hbit, hlt]

/-- The part that is the whole datum is its value modulo 2^(8n). -/
theorem partOf_whole_toNat (o : ByteOrder) (n : Nat) (v : Word) :
    (partOf o n v 0 n).toNat = v.toNat % 2 ^ (8 * n) := by
  have hstart : partStart o n 0 n = 0 := by cases o <;> simp [partStart]
  have hlt : v.toNat % 2 ^ (8 * n) < 2 ^ 64 := (Nat.mod_le _ _).trans_lt v.isLt
  rw [partOf, hstart, BitVec.toNat_setWidth, BitVec.extractLsb'_toNat, Nat.mul_zero, Nat.shiftRight_zero,
    Nat.mod_eq_of_lt hlt]

/-! ## Bytes at rising addresses -/

theorem add_one_add_ofNat (addr : Word) (j : Nat) :
    addr + 1 + BitVec.ofNat 64 j = addr + BitVec.ofNat 64 (j + 1) := by
  rw [BitVec.add_assoc, Nat.add_comm j 1, BitVec.ofNat_add]
  rfl

/-- Fewer than 2^64 bytes on, an address has not come round to itself. -/
theorem ne_add_ofNat_succ (addr : Word) {j : Nat} (h : j + 1 < 2 ^ 64) : addr ≠ addr + BitVec.ofNat 64 (j + 1) := by
  intro heq
  have := congrArg BitVec.toNat heq
  rw [BitVec.toNat_add, BitVec.toNat_ofNat] at this
  have := addr.isLt
  omega

@[simp] theorem Memory.length_readBytes (m : Memory) (addr : Word) (n : Nat) : (m.readBytes addr n).length = n := by
  induction n generalizing addr with
  | zero => rfl
  | succ n ih => simp [Memory.readBytes, ih]

theorem Memory.getElem_readBytes (m : Memory) (addr : Word) (n j : Nat) (h : j < (m.readBytes addr n).length) :
    (m.readBytes addr n)[j] = m.read (addr + BitVec.ofNat 64 j).toNat := by
  induction n generalizing addr j with
  | zero => cases h
  | succ n ih =>
    cases j with
    | zero => simp [Memory.readBytes]
    | succ j =>
      simp only [Memory.readBytes, List.getElem_cons_succ]
      rw [ih (addr + 1) j (Nat.lt_of_succ_lt_succ h), add_one_add_ofNat]

/-- Writing bytes leaves every address but theirs alone. -/
theorem Memory.read_writeBytes_of_ne (bs : List Byte) (m : Memory) (addr a : Word)
    (h : ∀ j, j < bs.length → a ≠ addr + BitVec.ofNat 64 j) :
    (m.writeBytes addr bs).read a.toNat = m.read a.toNat := by
  induction bs generalizing m addr with
  | nil => rfl
  | cons b bs ih =>
    have hhead : a.toNat ≠ addr.toNat := fun heq =>
      h 0 (Nat.zero_lt_succ _) (by simpa using BitVec.eq_of_toNat_eq heq)
    rw [Memory.writeBytes, ih _ _ fun j hj => by rw [add_one_add_ofNat]; exact h (j + 1) (Nat.succ_lt_succ hj),
      Memory.read_write_ne m hhead]

/-- Each byte of a write reads back at its address: the later ones do not come round to it. -/
theorem Memory.read_writeBytes {m : Memory} (hm : m.wf) (addr : Word) (bs : List Byte) (hlen : bs.length ≤ 2 ^ 64)
    {j : Nat} (hj : j < bs.length) : (m.writeBytes addr bs).read (addr + BitVec.ofNat 64 j).toNat = bs[j] := by
  induction bs generalizing m addr j with
  | nil => cases hj
  | cons b bs ih =>
    rw [List.length_cons] at hlen
    rw [Memory.writeBytes]
    cases j with
    | zero =>
      have hnext : ∀ k, k < bs.length → addr ≠ addr + 1 + BitVec.ofNat 64 k := fun k hk => by
        rw [add_one_add_ofNat]
        exact ne_add_ofNat_succ addr (by omega)
      rw [BitVec.add_zero, Memory.read_writeBytes_of_ne bs _ _ _ hnext, Memory.read_write_self hm]
      rfl
    | succ j =>
      rw [← add_one_add_ofNat, ih (Memory.wf_write hm addr.isLt b) (addr + 1) (by omega)
        (Nat.lt_of_succ_lt_succ hj)]
      rfl

/-! ## Loads and stores -/

/-- A load is the value at its address. -/
theorem Memory.valueAt_load (m : Memory) (o : ByteOrder) (addr : Word) {n : Nat} (hn : n ≤ 8) :
    ValueAt m o addr n (m.load o addr n) := by
  constructor
  · simpa [Memory.load] using joinBE_lt (o.arrange (m.readBytes addr n))
  · intro j hj
    have hbyte := byteOf_joinBE_arrange o (m.readBytes addr n) (by simpa using hn) (j := j) (by simpa using hj)
    rw [Memory.getElem_readBytes, Memory.length_readBytes] at hbyte
    exact hbyte.symm

/-- There is one value at an address, the one a load returns. -/
theorem Memory.load_eq_of_valueAt {m : Memory} {o : ByteOrder} {addr : Word} {n : Nat} {v : Word} (hn : n ≤ 8)
    (h : ValueAt m o addr n v) : m.load o addr n = v := by
  obtain ⟨hload, hloadBytes⟩ := m.valueAt_load o addr hn
  obtain ⟨hv, hvBytes⟩ := h
  exact eq_of_byteOf_eq o hload hv fun j hj => (hloadBytes j hj).symm.trans (hvBytes j hj)

/-- A store puts each byte of the datum at its place. -/
theorem Memory.read_store {m : Memory} (hm : m.wf) (o : ByteOrder) (addr : Word) {n : Nat} (hn : n ≤ 8) (v : Word)
    {j : Nat} (hj : j < n) : (m.store o addr n v).read (addr + BitVec.ofNat 64 j).toNat = byteOf o n v j := by
  rw [Memory.store, Memory.read_writeBytes hm addr _ (by simp; omega) (by simpa using hj),
    getElem_arrange_bytesBE o v hj]

/-- A store leaves every address but those of its datum alone. -/
theorem Memory.read_store_of_ne (m : Memory) (o : ByteOrder) (addr : Word) (n : Nat) (v a : Word)
    (h : ∀ j, j < n → a ≠ addr + BitVec.ofNat 64 j) : (m.store o addr n v).read a.toNat = m.read a.toNat :=
  Memory.read_writeBytes_of_ne _ m addr a (by simpa using h)

/-- A load of bytes that all lie in a stored datum returns that part of it. -/
theorem Memory.load_store_part {m : Memory} (hm : m.wf) (o : ByteOrder) (addr : Word) {n : Nat} (hn : n ≤ 8)
    (v : Word) {d k : Nat} (hdk : d + k ≤ n) :
    (m.store o addr n v).load o (addr + BitVec.ofNat 64 d) k = partOf o n v d k := by
  refine Memory.load_eq_of_valueAt (by omega) ⟨partOf_lt .., fun j hj => ?_⟩
  rw [byteOf_partOf o v hn hdk hj, BitVec.add_assoc, ← BitVec.ofNat_add, Memory.read_store hm o addr hn v (by omega)]

/-- A load of the first bytes of a stored datum, at the address of the store itself. -/
theorem Memory.load_store_first {m : Memory} (hm : m.wf) (o : ByteOrder) (addr : Word) {n : Nat} (hn : n ≤ 8)
    (v : Word) {k : Nat} (hk : k ≤ n) : (m.store o addr n v).load o addr k = partOf o n v 0 k := by
  simpa using Memory.load_store_part hm o addr hn v (d := 0) (k := k) (by omega)

/-- A store that is let through changes memory and the pc alone. -/
theorem State.storeMem_onlyStore {s : State} (hm : s.mem.wf) (addr : Word) {n : Nat} (hn : n ≤ 8) (v : Word) :
    OnlyStore s (s.storeMem addr n v).nextPc addr n v where
  mem := ⟨fun _ hj => Memory.read_store hm s.params.byteOrder addr hn v hj,
    fun a ha => s.mem.read_store_of_ne s.params.byteOrder addr n v a ha⟩
  pc := rfl
  x _ := rfl
  flags := rfl
  d _ := rfl
  monitor := rfl
  system := ⟨rfl, rfl, rfl⟩

/-- A load whose access is allowed goes on with the value of its bytes. -/
theorem loadThen_valueAt {s : State} {exclusive : Bool} {addr : Word} {n : Nat} (hn : n ≤ 8)
    (h : AccessAllowed s.params exclusive addr n) (use : Word → State) :
    ∃ v, ValueAt s.mem s.params.byteOrder addr n v ∧ s.loadThen exclusive addr n use = .next (use v).nextPc := by
  rcases s.loadThen_cases exclusive addr n use with ⟨-, heq⟩ | ⟨hnot, -⟩
  · exact ⟨_, s.mem.valueAt_load s.params.byteOrder addr hn, heq⟩
  · exact absurd h hnot

/-- A store whose access is allowed answers the state with the datum stored and the pc at the next instruction. -/
theorem storeThen_eq_of_allowed {s : State} {addr : Word} {n : Nat} (h : AccessAllowed s.params false addr n)
    (v : Word) : s.storeThen addr n v = .next (s.storeMem addr n v).nextPc := by
  rcases s.storeThen_cases addr n v with ⟨-, heq⟩ | ⟨hnot, -⟩
  · exact heq
  · exact absurd h hnot

/-- A store whose access is not allowed takes a Data Abort at the address of the access (R304, log entry 22). -/
theorem storeThen_raised {s : State} {addr : Word} {n : Nat} (h : ¬ AccessAllowed s.params false addr n) (v : Word) :
    ∃ t, s.storeThen addr n v = .next t ∧ Raised s t .dataAbort (some addr) := by
  rcases s.storeThen_cases addr n v with ⟨hok, -⟩ | ⟨-, heq⟩
  · exact absurd hok h
  · exact ⟨_, heq, s.takeException_raised _⟩

/-- No access is wider than a double word. -/
theorem accessSize_le {n : Nat} (h : n ∈ [1, 2, 4, 8]) : n ≤ 8 := by
  simp only [List.mem_cons, List.not_mem_nil, or_false] at h
  omega

/-- Settles O23: the load an allowed access makes is the value at its address. -/
theorem memoryRead : Obligations.MemoryRead := fun _ _ _ use hsize =>
  ⟨fun hok => loadThen_valueAt (accessSize_le hsize) hok use, fun hnot => loadThen_raised hnot use⟩

/-- Settles O24: the bytes of a store lie at distinct addresses, and the load straight after it reads the part of the
datum that is the whole. -/
theorem memoryWrite : Obligations.MemoryWrite := by
  intro s addr n v hsize hm
  have hn : n ≤ 8 := accessSize_le hsize
  refine ⟨fun hok => ⟨_, storeThen_eq_of_allowed hok v, State.storeMem_onlyStore hm addr hn v,
    State.wf_storeMem hm addr n v, ?_⟩, fun hnot => storeThen_raised hnot v⟩
  have hload := Memory.load_store_first hm s.params.byteOrder addr hn v le_rfl
  simpa [hload] using partOf_whole_toNat s.params.byteOrder n v

/-- Settles O25: every load of the table lies in the double word stored, so it returns that part of it. -/
theorem mixedWidths : Obligations.MixedWidths := by
  intro m a v hm _
  have first (o : ByteOrder) {k : Nat} (hk : k ≤ 8) := Memory.load_store_first hm o a le_rfl v hk
  have inner (o : ByteOrder) {d k : Nat} (hdk : d + k ≤ 8) := Memory.load_store_part hm o a le_rfl v hdk
  exact ⟨first .big (k := 1) (by decide), first .little (k := 1) (by decide),
    inner .big (d := 7) (k := 1) (by decide), inner .little (d := 7) (k := 1) (by decide),
    first .big (k := 2) (by decide), first .little (k := 2) (by decide),
    first .big (k := 4) (by decide), first .little (k := 4) (by decide),
    inner .big (d := 4) (k := 4) (by decide), inner .little (d := 4) (k := 4) (by decide)⟩

end Sys2Proof.Machine

namespace Sys2Proof.Machine

/-! # The operand values as concatenations (R90 to R94) -/

/-- A sign extension appends the field to copies of its sign bit. -/
theorem signExtend_add_eq_append {w : Nat} (v : Nat) (x : BitVec w) :
    x.signExtend (v + w) = (if x.msb then BitVec.allOnes v else 0) ++ x := by
  rw [BitVec.signExtend_eq_append_of_le (Nat.le_add_left w v)]
  apply BitVec.eq_of_toNat_eq
  cases x.msb <;> simp [BitVec.toNat_append]

/-- A branch offset: the sign bits, the field, and two zero bits. -/
theorem signExtend_append_zero {w : Nat} (v k : Nat) (x : BitVec (w + 1)) :
    (x ++ (0 : BitVec k)).signExtend (v + (w + 1 + k)) =
      ((if x.msb then BitVec.allOnes v else 0) ++ x ++ (0 : BitVec k)).cast (Nat.add_assoc ..) := by
  rw [signExtend_add_eq_append, BitVec.msb_append, if_neg w.succ_ne_zero, BitVec.append_assoc, BitVec.cast_cast,
    BitVec.cast_eq]

/-- The two zero bits at the end of a branch offset multiply the field's value by 4. -/
theorem toInt_signExtend_append_zero {w v : Nat} (x : BitVec w) (h : w + 2 ≤ v) :
    ((x ++ (0 : BitVec 2)).signExtend v).toInt = 4 * x.toInt := by
  rw [BitVec.toInt_signExtend_of_le h]
  exact BitVec.toInt_append_zero

/-- Settles O1: each value is a zero or a sign extension, which appends zeros or copies of the sign bit. -/
theorem operandImmediates : Obligations.OperandImmediates := fun imm br cbr addr mov hw =>
  ⟨BitVec.setWidth_eq_append (x := imm) (w := 64) (by decide),
    signExtend_append_zero 36 2 br, signExtend_append_zero 43 2 cbr, signExtend_add_eq_append 55 addr,
    congrArg (fun v : Word => v <<< quarterLo hw) (BitVec.setWidth_eq_append (x := mov) (w := 64) (by decide)),
    toInt_signExtend_append_zero br (by decide), toInt_signExtend_append_zero cbr (by decide),
    BitVec.toInt_signExtend_of_le (by decide), BitVec.toNat_setWidth_of_le (by decide)⟩

end Sys2Proof.Machine

namespace Sys2Proof

/-! # Words the decoder refuses (R99) -/

/-- The decoder refuses exactly the words no row matches. -/
theorem decode_error_iff (w : Word32) :
    (∃ e, decode w = .error e) ↔ ∀ r ∈ opcodeTable, w &&& r.mask ≠ r.bits := by
  have hnone : (∀ r ∈ opcodeTable, w &&& r.mask ≠ r.bits) ↔
      (opcodeTable.find? fun r => w &&& r.mask == r.bits) = none := by
    simp
  rw [hnone, decode]
  cases opcodeTable.find? fun r => w &&& r.mask == r.bits <;> simp

/-! ## A shared opcode allows some values of one more field -/

/-- Each row that takes words with opcode `op`, the bits of `opMask`, fixes the field of `k` bits at `start` to a value
that `allowed` lists. -/
def OpcodeFixesField (opMask op : Word32) (start : Nat) {k : Nat} (allowed : List (BitVec k)) : Prop :=
  ∀ r ∈ opcodeTable, op &&& r.mask = r.bits &&& opMask →
    r.mask.extractLsb' start k = BitVec.allOnes k ∧ r.bits.extractLsb' start k ∈ allowed

/-- A word with such an opcode and another value of the field is unallocated. -/
theorem OpcodeFixesField.decode_error {opMask op w : Word32} {start k : Nat} {allowed : List (BitVec k)}
    (hrows : OpcodeFixesField opMask op start allowed) (hop : w &&& opMask = op)
    (hfield : w.extractLsb' start k ∉ allowed) : ∃ e, decode w = .error e := by
  rw [decode_error_iff]
  intro r hr hmatch
  have htakes : op &&& r.mask = r.bits &&& opMask := by
    rw [← hop, ← hmatch, BitVec.and_assoc, BitVec.and_assoc, BitVec.and_comm opMask]
  obtain ⟨hmask, hbits⟩ := hrows r hr htakes
  rw [← hmatch, BitVec.extractLsb'_and, hmask, BitVec.and_allOnes] at hbits
  exact hfield hbits

/-- The rows of B.cond fix the condition to one of 0 to 13 (R95). -/
theorem bCond_fixes_condition :
    OpcodeFixesField 0xFF000000 0x54000000 0 ((List.range 14).map (BitVec.ofNat 5)) := by
  unfold OpcodeFixesField
  decide

/-- B.cond with a reserved condition is unallocated (R99, R175). -/
theorem decode_bCond_reserved (cbr : BitVec 19) (c : BitVec 5) (hc : 14 ≤ c.toNat) :
    ∃ e, decode (encodeCB 0b01010100 cbr c) = .error e := by
  refine bCond_fixes_condition.decode_error (encodeCB_and_op ..) ?_
  rw [← fieldRd, fieldRd_encodeCB, List.mem_map]
  rintro ⟨n, hn, rfl⟩
  rw [List.mem_range] at hn
  rw [BitVec.toNat_ofNat] at hc
  omega

/-- Each row with the 11-bit opcode `op` fixes the shamt to one of `allowed`. -/
def FixesShamt (op : BitVec 11) (allowed : List (BitVec 6)) : Prop :=
  OpcodeFixesField 0xFFE00000 (op.setWidth 32 <<< 21) 10 allowed

/-- A word of the R format with such an opcode and another shamt is unallocated (R99, R250). -/
theorem FixesShamt.decode_error {op : BitVec 11} {allowed : List (BitVec 6)} (hrows : FixesShamt op allowed)
    (rm : Reg) {sh : BitVec 6} (rn rd : Reg) (hsh : sh ∉ allowed) :
    ∃ e, decode (encodeR op rm sh rn rd) = .error e := by
  refine OpcodeFixesField.decode_error hrows (encodeR_and_op ..) ?_
  rwa [← fieldShamt, fieldShamt_encodeR]

/-- The opcodes whose rows fix the shamt: the two of floating point, that of the divisions, and that of MUL. -/
theorem shared_opcodes_fix_shamt :
    FixesShamt 0x0F1 [0b000010, 0b000110, 0b001000, 0b001010, 0b001110] ∧
    FixesShamt 0x0F3 [0b000010, 0b000110, 0b001000, 0b001010, 0b001110] ∧
    FixesShamt 0x4D6 [0b000010, 0b000011] ∧
    FixesShamt 0x4D8 [0b011111] := by
  unfold FixesShamt OpcodeFixesField
  decide

/-! ## The opcodes of eleven bits the rows take

A row fixes the leading bits of the opcode and leaves the others free, so it takes an interval of opcodes; the intervals
of the table stand in ascending order, but for rows that share an opcode. -/

/-- The first opcode a row takes, and how many it takes. -/
def OpcodeRow.opcodes (r : OpcodeRow) : Nat × Nat :=
  ((fieldOpcode11 r.bits).toNat, 2 ^ 11 - (fieldOpcode11 r.mask).toNat)

/-- The intervals of all rows, each once. -/
def opcodeIntervals : List (Nat × Nat) := (opcodeTable.map OpcodeRow.opcodes).dedup

/-- The opcodes all rows take. -/
def allocatedOpcodes : List Nat := opcodeIntervals.flatMap fun o => List.range' o.1 o.2

/-- Each row leaves the last `j` bits of the opcode free and fixes the others. -/
theorem row_opcode_mask : ∀ r ∈ opcodeTable, ∃ j < 11,
    r.mask &&& (0xFFE00000 : Word32) = BitVec.allOnes 32 <<< (21 + j) ∧
    r.bits &&& 0xFFE00000 = BitVec.ofNat 32 (r.opcodes.1 * 2 ^ 21) ∧
    r.opcodes.1 % 2 ^ j = 0 ∧ r.opcodes.1 + 2 ^ j ≤ 2048 ∧ r.opcodes.2 = 2 ^ j := by
  decide

/-- A number with its last `j` bits cleared is `first`, a multiple of `2 ^ j`, where it lies in the interval from there. -/
theorem div_mul_eq_iff_mem_range' {first op j : Nat} (hfirst : first % 2 ^ j = 0) :
    op / 2 ^ j * 2 ^ j = first ↔ op ∈ List.range' first (2 ^ j) := by
  have hop := Nat.div_add_mod' op (2 ^ j)
  have hlt := Nat.mod_lt op (Nat.two_pow_pos j)
  rw [List.mem_range'_1]
  constructor
  · omega
  · rintro ⟨hge, hle⟩
    have hq : first / 2 ^ j * 2 ^ j = first := Nat.div_mul_cancel (Nat.dvd_of_mod_eq_zero hfirst)
    have : op / 2 ^ j = first / 2 ^ j := by
      rw [Nat.div_eq_iff (Nat.two_pow_pos j)]
      omega
    rw [this, hq]

/-- Clearing all bits but the opcode's leading ones. -/
theorem toNat_opcode_and_mask {op j : Nat} (hop : op < 2048) :
    (BitVec.ofNat 32 (op * 2 ^ 21) &&& BitVec.allOnes 32 <<< (21 + j)).toNat = op / 2 ^ j * 2 ^ j * 2 ^ 21 := by
  have hle : op / 2 ^ j * 2 ^ j ≤ op := Nat.div_mul_le_self ..
  have hshift : op * 2 ^ 21 / 2 ^ (21 + j) = op / 2 ^ j := by
    rw [Nat.pow_add, ← Nat.div_div_eq_div_mul, Nat.mul_div_cancel _ (by decide)]
  rw [← BitVec.shiftLeft_ushiftRight, BitVec.toNat_shiftLeft, BitVec.toNat_ushiftRight, BitVec.toNat_ofNat,
    Nat.mod_eq_of_lt (a := op * 2 ^ 21) (by omega), Nat.shiftRight_eq_div_pow, hshift, Nat.shiftLeft_eq,
    Nat.add_comm 21 j, Nat.pow_add, ← Nat.mul_assoc]
  exact Nat.mod_eq_of_lt (by omega)

/-- A row takes the opcodes of its interval. -/
theorem row_takes_opcode_iff {r : OpcodeRow} (hr : r ∈ opcodeTable) {op : Nat} (hop : op < 2048) :
    BitVec.ofNat 32 (op * 2 ^ 21) &&& (r.mask &&& 0xFFE00000) = r.bits &&& 0xFFE00000 ↔
      op ∈ List.range' r.opcodes.1 r.opcodes.2 := by
  obtain ⟨j, -, hmask, hbits, hdvd, hle, hcount⟩ := row_opcode_mask r hr
  have hpos := Nat.two_pow_pos j
  rw [hmask, hbits, hcount, ← div_mul_eq_iff_mem_range' hdvd, ← BitVec.toNat_inj, toNat_opcode_and_mask hop,
    BitVec.toNat_ofNat, Nat.mod_eq_of_lt (by omega)]
  omega

theorem mem_allocatedOpcodes {op : Nat} :
    op ∈ allocatedOpcodes ↔ ∃ r ∈ opcodeTable, op ∈ List.range' r.opcodes.1 r.opcodes.2 := by
  simp [allocatedOpcodes, opcodeIntervals]

theorem lt_of_mem_allocatedOpcodes {op : Nat} (h : op ∈ allocatedOpcodes) : op < 2048 := by
  obtain ⟨r, hr, hmem⟩ := mem_allocatedOpcodes.1 h
  obtain ⟨j, -, -, -, -, hle, hcount⟩ := row_opcode_mask r hr
  rw [List.mem_range'_1, hcount] at hmem
  omega

/-- Each interval ends before the next begins. -/
theorem opcodeIntervals_ascending : opcodeIntervals.Pairwise fun a b => a.1 + a.2 ≤ b.1 := by
  decide

theorem allocatedOpcodes_nodup : allocatedOpcodes.Nodup := by
  rw [allocatedOpcodes, List.nodup_flatMap]
  refine ⟨fun _ _ => List.nodup_range', opcodeIntervals_ascending.imp fun hab op ha hb => ?_⟩
  rw [List.mem_range'_1] at ha hb
  omega

theorem length_allocatedOpcodes : allocatedOpcodes.length = 143 := by
  rw [allocatedOpcodes, List.length_flatMap]
  simp only [List.length_range']
  decide

/-- The numbers below 2048 that are an opcode some row takes are the allocated opcodes. -/
theorem filter_takes_opcode_perm :
    ((List.range 2048).filter fun op => opcodeTable.any fun r =>
      (BitVec.ofNat 32 (op * 2 ^ 21) &&& (r.mask &&& 0xFFE00000)) == (r.bits &&& 0xFFE00000)).Perm
        allocatedOpcodes := by
  rw [List.perm_ext_iff_of_nodup (List.nodup_range.filter _) allocatedOpcodes_nodup]
  intro op
  rw [List.mem_filter, List.mem_range, List.any_eq_true, mem_allocatedOpcodes]
  constructor
  · rintro ⟨hop, r, hr, htakes⟩
    exact ⟨r, hr, (row_takes_opcode_iff hr hop).1 (beq_iff_eq.1 htakes)⟩
  · rintro ⟨r, hr, hmem⟩
    have hop := lt_of_mem_allocatedOpcodes (mem_allocatedOpcodes.2 ⟨r, hr, hmem⟩)
    exact ⟨hop, r, hr, beq_iff_eq.2 ((row_takes_opcode_iff hr hop).2 hmem)⟩

end Sys2Proof

namespace Sys2Proof.Machine

/-! ## The step of a refused word (R301) -/

/-- The decoder of a launch refuses what `decode` refuses, and under STRICT_UNUSED_FIELDS a word with a nonzero unused
field (R98). -/
theorem decodeFor_error {p : Params} {w : Word32}
    (h : (∃ e, decode w = .error e) ∨
      (p.strictUnused = true ∧ ∃ i, decode w = .ok i ∧ w &&& unusedMask i.mnemonic ≠ 0)) :
    ∃ e, decodeFor p w = .error e := by
  rcases h with ⟨e, he⟩ | ⟨hstrict, i, hi, hunused⟩
  · exact ⟨e, by simp [decodeFor, he]⟩
  · exact ⟨.unusedFieldSet, by
      rw [decodeFor, hi]
      exact if_pos (by simpa [hstrict] using hunused)⟩

/-- A step that fetches a refused word takes the exception Unknown (R301). -/
theorem step_of_decodeFor_error {s : State} {w : Word32} {e : Reject} (hrec : s.faultRecord = none)
    (hfetch : fetch s.params s.pc = .word w) (he : decodeFor s.params w = .error e) :
    step s = .next (s.takeException .unknown) := by
  simp [step, hrec, hfetch, he]

/-! ## The two instructions that change nothing but pc (R99) -/

/-- Moving on to the next instruction changes the pc alone. -/
theorem State.nextPc_onlyPc (s : State) : OnlyPc s s.nextPc (s.pc + 4) where
  pc := rfl
  x _ := rfl
  flags := rfl
  d _ := rfl
  mem _ := rfl
  monitor := rfl
  system := ⟨rfl, rfl, rfl⟩

/-- A register written with what it reads changes no state. -/
@[simp] theorem State.writeX_readX (s : State) (r : Reg) : s.writeX r (s.readX r) = s := by
  unfold State.writeX State.readX
  split
  · rw [Vector.set_getElem_self]
  · rfl

theorem exec_add_eq (rd rn rm : Reg) (s : State) :
    exec (.add rd rn rm) s = .next (s.writeX rd (s.readX rn + s.readX rm)).nextPc := rfl

theorem exec_orr_eq (rd rn rm : Reg) (s : State) :
    exec (.orr rd rn rm) s = .next (s.writeX rd (s.readX rn ||| s.readX rm)).nextPc := rfl

/-- An ADD to XZR is a no-op, whatever it adds. -/
theorem exec_add_xzr (rn rm : Reg) (s : State) : exec (.add 31 rn rm) s = .next s.nextPc := by
  simp [exec_add_eq]

/-- An ORR of a register with itself into itself is a no-op. -/
theorem exec_orr_self (r : Reg) (s : State) : exec (.orr r r r) s = .next s.nextPc := by
  rw [exec_orr_eq, BitVec.or_self, State.writeX_readX]

/-- Settles O6: the rows with a shared opcode fix the condition or the shamt, the decoder's refusal is the step's
exception, and the intervals of opcodes the rows take hold 143. -/
theorem unallocatedWords : Obligations.UnallocatedWords := by
  obtain ⟨hsingle, hdouble, hdivide, hmul⟩ := shared_opcodes_fix_shamt
  refine ⟨decode_error_iff, decode_bCond_reserved, fun sh rm rn rd => ⟨fun hsh => ?_, fun hsh => ?_, fun hsh => ?_⟩,
    ?_, ?_, by decide, fun s => ⟨_, exec_add_xzr 31 31 s, s.nextPc_onlyPc⟩,
    fun s => ⟨_, exec_orr_self 0 s, s.nextPc_onlyPc⟩⟩
  · exact ⟨hsingle.decode_error rm rn rd hsh, hdouble.decode_error rm rn rd hsh⟩
  · exact hdivide.decode_error rm rn rd hsh
  · exact hmul.decode_error rm rn rd (mt List.mem_singleton.1 hsh)
  · intro s w hrec hfetch hrefused
    obtain ⟨e, he⟩ := decodeFor_error hrefused
    exact ⟨_, step_of_decodeFor_error hrec hfetch he, s.takeException_raised .unknown⟩
  · exact filter_takes_opcode_perm.length_eq.trans length_allocatedOpcodes

end Sys2Proof.Machine

namespace Sys2Proof

/-! # Decoding a word of the R and the I format (R97) -/

/-- No word matches both rows: they fix some bit to different values. -/
def OpcodeRow.Apart (a b : OpcodeRow) : Prop := a.bits &&& b.mask ≠ b.bits &&& a.mask

theorem OpcodeRow.Apart.symm {a b : OpcodeRow} (h : a.Apart b) : b.Apart a := Ne.symm h

theorem OpcodeRow.Apart.not_both {a b : OpcodeRow} (h : a.Apart b) {w : Word32} (ha : w &&& a.mask = a.bits) :
    w &&& b.mask ≠ b.bits := by
  intro hb
  apply h
  rw [← ha, ← hb, BitVec.and_assoc, BitVec.and_assoc, BitVec.and_comm a.mask]

/-- The rows of the opcode table exclude each other (R97). -/
theorem opcodeTable_pairwise_apart : opcodeTable.Pairwise OpcodeRow.Apart := by
  unfold OpcodeRow.Apart
  decide

/-- A word decodes by any row it matches, wherever the row stands. -/
theorem decode_of_row {w : Word32} {r : OpcodeRow} (hr : r ∈ opcodeTable) (hw : w &&& r.mask = r.bits) :
    decode w = .ok (r.build w) := by
  have hsymm : Std.Symm OpcodeRow.Apart := ⟨fun _ _ => OpcodeRow.Apart.symm⟩
  rw [decode]
  cases hfind : opcodeTable.find? fun r => w &&& r.mask == r.bits with
  | none => exact absurd (beq_iff_eq.2 hw) (List.find?_eq_none.1 hfind r hr)
  | some q =>
    have hq : w &&& q.mask = q.bits := beq_iff_eq.1 (List.find?_some hfind :)
    by_cases hqr : q = r
    · rw [hqr]
    · have hapart := opcodeTable_pairwise_apart.forall (List.mem_of_find?_eq_some hfind) hr hqr
      exact absurd hw (hapart.not_both hq)

/-- The row of R97 that takes every word of the R format with opcode `op`, whatever its shamt. -/
def OpcodeRow.ofR (op : BitVec 11) (f : Reg → Reg → Reg → Instr) : OpcodeRow :=
  ⟨0xFFE00000, op.setWidth 32 <<< 21, fun w => f (fieldRd w) (fieldRn w) (fieldRm w)⟩

/-- The row of R97 that takes every word of the I format with opcode `op`. -/
def OpcodeRow.ofI (op : BitVec 10) (f : Reg → Reg → BitVec 12 → Instr) : OpcodeRow :=
  ⟨0xFFC00000, op.setWidth 32 <<< 22, fun w => f (fieldRd w) (fieldRn w) (fieldImm w)⟩

/-- Decoding a word of the R format, by the number `k` of its row. -/
theorem decode_encodeR (op : BitVec 11) (f : Reg → Reg → Reg → Instr) (k : Nat)
    (h : opcodeTable[k]? = some (.ofR op f)) {rd rn rm : Reg} {sh : BitVec 6} :
    decode (encodeR op rm sh rn rd) = .ok (f rd rn rm) := by
  rw [decode_of_row (List.mem_of_getElem? h) (encodeR_and_op ..)]
  simp [OpcodeRow.ofR]

/-- Decoding a word of the I format, by the number `k` of its row. -/
theorem decode_encodeI (op : BitVec 10) (f : Reg → Reg → BitVec 12 → Instr) (k : Nat)
    (h : opcodeTable[k]? = some (.ofI op f)) {rd rn : Reg} {imm : BitVec 12} :
    decode (encodeI op imm rn rd) = .ok (f rd rn imm) := by
  rw [decode_of_row (List.mem_of_getElem? h) (encodeI_and_op ..)]
  simp [OpcodeRow.ofI]

end Sys2Proof

namespace Sys2Proof.Machine

/-! # Add and subtract (R121 to R128) -/

/-- Writing a general register and the flags and moving on keeps everything else. -/
theorem State.writeX_setFlags_nextPc_onlyX (s : State) (rd : Reg) (v : Word) (f : Flags) :
    OnlyX s ((s.writeX rd v).setFlags f).nextPc rd v where
  x r := s.readX_writeX rd r v
  pc := congrArg (· + 4) (s.writeX_pc rd v)
  d := s.readD_writeX rd v
  mem a := congrArg (Memory.read · a.toNat) (s.writeX_mem rd v)
  monitor := s.writeX_monitor rd v
  system := ⟨s.writeX_esr rd v, s.writeX_faultRecord rd v, s.writeX_params rd v⟩

/-- What an instruction that ends in `finishX` does. -/
theorem State.finishX_effect (s : State) (rd : Reg) (v : Word) :
    ∃ t, s.finishX rd v = .next t ∧ OnlyX s t rd v ∧ t.flags = s.flags :=
  ⟨_, rfl, s.writeX_setFlags_nextPc_onlyX rd v (s.writeX rd v).flags, s.writeX_flags rd v⟩

/-- What an instruction that ends in `finishXFlags` does. -/
theorem State.finishXFlags_effect (s : State) (rd : Reg) (r : Word × Flags) :
    ∃ t, s.finishXFlags rd r = .next t ∧ OnlyX s t rd r.1 ∧ t.flags = r.2 :=
  ⟨_, rfl, s.writeX_setFlags_nextPc_onlyX rd r.1 r.2, rfl⟩

/-- Z of a subtraction is equality. -/
theorem subFlags_z_iff (a b : Word) : (subFlags a b).2.z = true ↔ a = b := by
  rw [subFlags, addWithCarry_z, ← subFlags, subFlags_fst]
  exact sub_eq_zero

/-- Settles O11: the row of each fixes its opcode alone, and its meaning ends in `finishX`. -/
theorem addAndSubtract : Obligations.AddAndSubtract := fun s rd rn rm imm _ =>
  ⟨⟨decode_encodeR 0b10001011000 .add 30 rfl, s.finishX_effect rd (s.readX rn + s.readX rm)⟩,
    ⟨decode_encodeI 0b1001000100 .addi 31 rfl, s.finishX_effect rd (s.readX rn + aluImm imm)⟩,
    ⟨decode_encodeR 0b11001011000 .sub 52 rfl, s.finishX_effect rd (s.readX rn - s.readX rm)⟩,
    ⟨decode_encodeI 0b1101000100 .subi 53 rfl, s.finishX_effect rd (s.readX rn - aluImm imm)⟩⟩

/-- Settles O12: the row of each fixes its opcode alone, and its meaning ends in `finishXFlags`. -/
theorem addAndSubtractSetFlags : Obligations.AddAndSubtractSetFlags := by
  intro s rd rn rm imm sh
  refine ⟨⟨decode_encodeR 0b10101011000 .adds 40 rfl, s.finishXFlags_effect rd (addFlags (s.readX rn) (s.readX rm))⟩,
    ⟨decode_encodeI 0b1011000100 .addis 41 rfl, s.finishXFlags_effect rd (addFlags (s.readX rn) (aluImm imm))⟩,
    ⟨decode_encodeR 0b11101011000 .subs 60 rfl, ?_⟩,
    ⟨decode_encodeI 0b1111000100 .subis 61 rfl, s.finishXFlags_effect rd (subFlags (s.readX rn) (aluImm imm))⟩⟩
  obtain ⟨t, ht, honly, hflags⟩ := s.finishXFlags_effect rd (subFlags (s.readX rn) (s.readX rm))
  exact ⟨t, ht, honly, hflags, hflags ▸ subFlags_c_iff .., hflags ▸ subFlags_z_iff ..⟩

/-! ## The conditions after a subtraction (R129) -/

/-- N of a subtraction is the sign of the difference modulo 2^64. -/
theorem subFlags_n (a b : Word) : (subFlags a b).2.n = (a - b).msb :=
  congrArg BitVec.msb (subFlags_fst a b)

/-- V of a subtraction says that the result is not the exact difference. -/
theorem subFlags_v_iff_toInt_ne (a b : Word) : (subFlags a b).2.v = true ↔ (a - b).toInt ≠ a.toInt - b.toInt := by
  rw [subFlags, addWithCarry_v, signedSum_not, ← subFlags, subFlags_fst]

/-- N is the sign of the exact difference unless V is set, and then it is the other sign. -/
theorem subFlags_n_eq_v_iff (a b : Word) : (subFlags a b).2.n = (subFlags a b).2.v ↔ b.toInt ≤ a.toInt := by
  have hn : (subFlags a b).2.n = true ↔ (a.toInt - b.toInt).bmod (2 ^ 64) < 0 := by
    rw [subFlags_n, BitVec.msb_eq_toInt, decide_eq_true_iff, BitVec.toInt_sub]
  have ha := a.le_toInt
  have ha' := a.toInt_lt
  have hb := b.le_toInt
  have hb' := b.toInt_lt
  rw [Bool.eq_iff_iff, hn, subFlags_v_iff, Int.bmod_def]
  split <;> omega

theorem condHolds_eq_subFlags (a b : Word) : condHolds .eq (subFlags a b).2 = true ↔ a = b := subFlags_z_iff a b

theorem condHolds_hs_subFlags (a b : Word) : condHolds .hs (subFlags a b).2 = true ↔ b.toNat ≤ a.toNat :=
  subFlags_c_iff a b

theorem condHolds_hi_subFlags (a b : Word) : condHolds .hi (subFlags a b).2 = true ↔ b.toNat < a.toNat := by
  rw [condHolds, Bool.and_eq_true, Bool.not_eq_true', ← Bool.not_eq_true, subFlags_z_iff, subFlags_c_iff,
    ← BitVec.toNat_inj]
  omega

theorem condHolds_ge_subFlags (a b : Word) : condHolds .ge (subFlags a b).2 = true ↔ b.toInt ≤ a.toInt :=
  beq_iff_eq.trans (subFlags_n_eq_v_iff a b)

theorem condHolds_gt_subFlags (a b : Word) : condHolds .gt (subFlags a b).2 = true ↔ b.toInt < a.toInt := by
  rw [condHolds, Bool.and_eq_true, Bool.not_eq_true', ← Bool.not_eq_true, beq_iff_eq, subFlags_z_iff,
    subFlags_n_eq_v_iff, ← BitVec.toInt_inj]
  omega

/-- A condition whose test is the complement of another's means the opposite. -/
theorem condHolds_iff_of_complement {c c' : Cond} {f : Flags} {p q : Prop} (hc : condHolds c' f = !condHolds c f)
    (h : condHolds c f = true ↔ p) (hpq : ¬ p ↔ q) : condHolds c' f = true ↔ q := by
  rw [hc, Bool.not_eq_true', ← Bool.not_eq_true, h, hpq]

theorem aluImm_toNat (imm : BitVec 12) : (aluImm imm).toNat = imm.toNat :=
  BitVec.toNat_setWidth_of_le (by decide)

/-- A zero-extended immediate is not negative. -/
theorem aluImm_toInt (imm : BitVec 12) : (aluImm imm).toInt = imm.toNat := by
  have := imm.isLt
  rw [BitVec.toInt_eq_toNat_of_lt, aluImm_toNat]
  rw [aluImm_toNat]
  omega

/-- Settles O13: the flags of a subtraction order its operands, and a complementary condition means the opposite. -/
theorem conditionsAfterSubtraction : Obligations.ConditionsAfterSubtraction := by
  refine ⟨fun f => ?tests, fun s rd rn rm => ?subs, fun s rd rn imm => ?subis⟩
  case tests => exact ⟨rfl, rfl, rfl, rfl, rfl, rfl, rfl, rfl, rfl, rfl, rfl, rfl, rfl, rfl⟩
  case subs =>
    obtain ⟨t, ht, -, hflags⟩ := s.finishXFlags_effect rd (subFlags (s.readX rn) (s.readX rm))
    refine ⟨t, ht, ?_⟩
    rw [hflags]
    generalize s.readX rn = a
    generalize s.readX rm = b
    have heq := condHolds_eq_subFlags a b
    have hhs := condHolds_hs_subFlags a b
    have hhi := condHolds_hi_subFlags a b
    have hge := condHolds_ge_subFlags a b
    have hgt := condHolds_gt_subFlags a b
    have hvs := subFlags_v_iff_toInt_ne a b
    exact ⟨heq, condHolds_iff_of_complement rfl heq Iff.rfl, hhs, condHolds_iff_of_complement rfl hhs Nat.not_le,
      hhi, condHolds_iff_of_complement rfl hhi Nat.not_lt, hge, condHolds_iff_of_complement rfl hge Int.not_le,
      hgt, condHolds_iff_of_complement rfl hgt Int.not_lt, subFlags_n a b, congrArg not (subFlags_n a b),
      hvs, condHolds_iff_of_complement (c := .vs) rfl hvs not_not⟩
  case subis =>
    obtain ⟨t, ht, -, hflags⟩ := s.finishXFlags_effect rd (subFlags (s.readX rn) (aluImm imm))
    refine ⟨t, ht, ?_⟩
    rw [hflags, ← aluImm_toInt, ← aluImm_toNat]
    exact ⟨condHolds_eq_subFlags .., condHolds_hs_subFlags .., condHolds_hi_subFlags .., condHolds_ge_subFlags ..,
      condHolds_gt_subFlags ..⟩

end Sys2Proof.Machine

namespace Sys2Proof

/-! # Decoding a shift (R97) -/

/-- The row of R97 that takes every word of the R format with opcode `op`, whatever its Rm, for an instruction whose
operand is the shamt. -/
def OpcodeRow.ofShift (op : BitVec 11) (f : Reg → Reg → BitVec 6 → Instr) : OpcodeRow :=
  ⟨0xFFE00000, op.setWidth 32 <<< 21, fun w => f (fieldRd w) (fieldRn w) (fieldShamt w)⟩

/-- Decoding the word of a shift, by the number `k` of its row. -/
theorem decode_encodeR_shift (op : BitVec 11) (f : Reg → Reg → BitVec 6 → Instr) (k : Nat)
    (h : opcodeTable[k]? = some (.ofShift op f)) {rd rn rm : Reg} {sh : BitVec 6} :
    decode (encodeR op rm sh rn rd) = .ok (f rd rn sh) := by
  rw [decode_of_row (List.mem_of_getElem? h) (encodeR_and_op ..)]
  simp [OpcodeRow.ofShift]

end Sys2Proof

namespace Sys2Proof.Machine

/-! # Logical instructions (R140 to R148) -/

/-! ## A zero-extended immediate as a mask -/

/-- A conjunction with an immediate lies in 0 .. 4095 (R142). -/
theorem and_aluImm_lt (x : Word) (imm : BitVec 12) : (x &&& aluImm imm).toNat < 4096 := by
  have hle : (x &&& aluImm imm).toNat ≤ imm.toNat := by
    rw [BitVec.toNat_and, aluImm_toNat]
    exact Nat.and_le_right
  exact hle.trans_lt imm.isLt

/-- Bit 63 of a conjunction with an immediate is clear (R144). -/
theorem and_aluImm_msb (x : Word) (imm : BitVec 12) : (x &&& aluImm imm).msb = false := by
  have hlt := and_aluImm_lt x imm
  rw [BitVec.msb_eq_false_iff_two_mul_lt]
  omega

/-- Bits 63:12 of an immediate are clear (R90). -/
theorem aluImm_high (imm : BitVec 12) : (aluImm imm).extractLsb' 12 52 = 0 := by
  apply BitVec.eq_of_toNat_eq
  rw [BitVec.extractLsb'_toNat, aluImm_toNat, Nat.shiftRight_eq_zero _ _ imm.isLt]
  rfl

/-- A disjunction with an immediate keeps bits 63:12 (R146). -/
theorem or_aluImm_high (x : Word) (imm : BitVec 12) :
    (x ||| aluImm imm).extractLsb' 12 52 = x.extractLsb' 12 52 := by
  rw [BitVec.extractLsb'_or, aluImm_high]
  exact BitVec.or_zero

/-- An exclusive disjunction with an immediate keeps bits 63:12 (R148). -/
theorem xor_aluImm_high (x : Word) (imm : BitVec 12) :
    (x ^^^ aluImm imm).extractLsb' 12 52 = x.extractLsb' 12 52 := by
  rw [BitVec.extractLsb'_xor, aluImm_high]
  exact BitVec.xor_zero

/-- Settles O14: the row of each fixes its opcode alone, its meaning ends in `finishX`, and an immediate has no bit
above 11. -/
theorem logical : Obligations.Logical := by
  intro s rd rn rm imm sh
  refine ⟨⟨decode_encodeR 0b10001010000 .and 29 rfl, s.finishX_effect rd (s.readX rn &&& s.readX rm)⟩,
    ⟨decode_encodeI 0b1001001000 .andi 32 rfl, ?andi⟩,
    ⟨decode_encodeR 0b10101010000 .orr 39 rfl, s.finishX_effect rd (s.readX rn ||| s.readX rm)⟩,
    ⟨decode_encodeI 0b1011001000 .orri 42 rfl, ?orri⟩,
    ⟨decode_encodeR 0b11001010000 .eor 51 rfl, s.finishX_effect rd (s.readX rn ^^^ s.readX rm)⟩,
    ⟨decode_encodeI 0b1101001000 .eori 54 rfl, ?eori⟩⟩
  case andi =>
    obtain ⟨t, ht, honly, hflags⟩ := s.finishX_effect rd (s.readX rn &&& aluImm imm)
    exact ⟨t, ht, honly, hflags, and_aluImm_lt ..⟩
  case orri =>
    obtain ⟨t, ht, honly, hflags⟩ := s.finishX_effect rd (s.readX rn ||| aluImm imm)
    exact ⟨t, ht, honly, hflags, or_aluImm_high ..⟩
  case eori =>
    obtain ⟨t, ht, honly, hflags⟩ := s.finishX_effect rd (s.readX rn ^^^ aluImm imm)
    exact ⟨t, ht, honly, hflags, xor_aluImm_high ..⟩

/-! ## The two that set the flags -/

/-- Taking a free value first does not widen what an instruction changes: the count of free values is in no frame. -/
theorem OnlyX.of_eq_or_draw {s s' t : State} {rd : Reg} {v : Word} (hs : s' = s ∨ s' = s.draw.2)
    (h : OnlyX s' t rd v) : OnlyX s t rd v := by
  obtain ⟨hx, hpc, hd, hmem, hmonitor, hesr, hrec, hparams⟩ := h
  rcases hs with rfl | rfl <;> exact ⟨hx, hpc, hd, hmem, hmonitor, hesr, hrec, hparams⟩

/-- What an instruction that ends in `finishLogical` does: C and V are the resolved LOGICAL_FLAGS_CV (R30). -/
theorem finishLogical_effect (s : State) (rd : Reg) (r : Word) :
    ∃ t, finishLogical rd r s = .next t ∧ OnlyX s t rd r ∧
      t.flags = logicalFlags r (s.resolve s.params.logicalCV pairOfDraw).1 := by
  obtain ⟨t, ht, honly, hflags⟩ := (s.resolve s.params.logicalCV pairOfDraw).2.finishXFlags_effect rd
    (r, logicalFlags r (s.resolve s.params.logicalCV pairOfDraw).1)
  exact ⟨t, ht, honly.of_eq_or_draw (s.resolve_state ..), hflags⟩

theorem logicalFlags_n (r : Word) (cv : Bool × Bool) : (logicalFlags r cv).n = r.getLsbD 63 :=
  BitVec.msb_eq_getLsbD_last r

theorem logicalFlags_z_iff (r : Word) (cv : Bool × Bool) : (logicalFlags r cv).z = true ↔ r = 0 := beq_iff_eq

/-- C and V where LOGICAL_FLAGS_CV fixes them. -/
theorem logicalFlags_cv_of_fixed {s : State} {c v : Bool} (h : s.params.logicalCV = .fixed (c, v)) (r : Word) :
    (logicalFlags r (s.resolve s.params.logicalCV pairOfDraw).1).c = c ∧
      (logicalFlags r (s.resolve s.params.logicalCV pairOfDraw).1).v = v := by
  rw [h]
  exact ⟨rfl, rfl⟩

/-- Settles O15: the row of each fixes its opcode alone, and its meaning ends in `finishLogical`. -/
theorem logicalSetFlags : Obligations.LogicalSetFlags := by
  intro s rd rn rm imm sh
  refine ⟨⟨decode_encodeR 0b11101010000 .ands 59 rfl, ?ands⟩, ⟨decode_encodeI 0b1111001000 .andis 62 rfl, ?andis⟩, rfl⟩
  case ands =>
    obtain ⟨t, ht, honly, hflags⟩ := finishLogical_effect s rd (s.readX rn &&& s.readX rm)
    refine ⟨t, ht, honly, ?_⟩
    rw [hflags]
    exact ⟨logicalFlags_n .., logicalFlags_z_iff .., fun c v hcv => logicalFlags_cv_of_fixed hcv _⟩
  case andis =>
    obtain ⟨t, ht, honly, hflags⟩ := finishLogical_effect s rd (s.readX rn &&& aluImm imm)
    refine ⟨t, ht, honly, ?_⟩
    rw [hflags]
    exact ⟨and_aluImm_msb .., logicalFlags_z_iff .., fun c v hcv => logicalFlags_cv_of_fixed hcv _⟩

/-! # Shifts (R150, R151) -/

/-- Settles O16: the row of each leaves Rm free, its meaning ends in `finishX`, and the shift is its arithmetic. -/
theorem shifts : Obligations.Shifts := by
  intro s rd rn rm sh
  refine ⟨⟨decode_encodeR_shift 0b11010011011 .lsl 57 rfl, ?lsl⟩,
    ⟨decode_encodeR_shift 0b11010011010 .lsr 56 rfl, ?lsr⟩⟩
  case lsl =>
    obtain ⟨t, ht, honly, hflags⟩ := s.finishX_effect rd (s.readX rn <<< sh.toNat)
    have hmul : (s.readX rn <<< sh.toNat).toNat = (s.readX rn).toNat * 2 ^ sh.toNat % 2 ^ 64 := by
      rw [BitVec.toNat_shiftLeft, Nat.shiftLeft_eq]
    exact ⟨t, _, ht, honly, hflags, rfl, hmul⟩
  case lsr =>
    obtain ⟨t, ht, honly, hflags⟩ := s.finishX_effect rd (s.readX rn >>> sh.toNat)
    have hdiv : (s.readX rn >>> sh.toNat).toNat = (s.readX rn).toNat / 2 ^ sh.toNat := by
      rw [BitVec.toNat_ushiftRight, Nat.shiftRight_eq_div_pow]
    exact ⟨t, _, ht, honly, hflags, rfl, hdiv⟩

end Sys2Proof.Machine

namespace Sys2Proof

/-! # Decoding an encoded instruction (R97) -/

/-- A word decodes to the instruction it encodes, by that instruction's row of the opcode table (R97). -/
theorem decode_encode_of_row {i : Instr} (h : Laws.RowOf.Statement i) : decode (encode i) = .ok i := by
  obtain ⟨r, hr, hw, hbuild⟩ := h
  rw [decode_of_row hr hw, hbuild]

end Sys2Proof

namespace Sys2Proof.Machine

/-! # Move wide (R160 to R163) -/

/-! ## The two results, bit by bit -/

/-- The immediate in its quarter, zeros elsewhere (R161). -/
theorem movImm_getLsbD (mov : BitVec 16) (hw : BitVec 2) {j : Nat} (hj : j < 64) :
    (movImm mov hw).getLsbD j =
      if quarterLo hw ≤ j ∧ j < quarterLo hw + 16 then mov.getLsbD (j - quarterLo hw) else false := by
  rw [movImm, BitVec.getLsbD_shiftLeft, BitVec.getLsbD_setWidth]
  split
  case isTrue hin =>
    have hlow : ¬ j < quarterLo hw := by omega
    have hwidth : j - quarterLo hw < 64 := by omega
    simp [hj, hlow, hwidth]
  case isFalse hout =>
    by_cases hlow : j < quarterLo hw
    · simp [hlow]
    · have hhigh : 16 ≤ j - quarterLo hw := by omega
      simp [BitVec.getLsbD_of_ge mov _ hhigh]

/-- The immediate in its quarter, the old bits elsewhere (R162); the mask is the immediate of sixteen ones in its
place. -/
theorem movKeep_getLsbD (old : Word) (mov : BitVec 16) (hw : BitVec 2) {j : Nat} (hj : j < 64) :
    (movKeep old mov hw).getLsbD j =
      if quarterLo hw ≤ j ∧ j < quarterLo hw + 16 then mov.getLsbD (j - quarterLo hw) else old.getLsbD j := by
  have hmask : (0xFFFF : Word) <<< quarterLo hw = movImm (BitVec.allOnes 16) hw := rfl
  rw [movKeep, hmask, BitVec.getLsbD_or, BitVec.getLsbD_and, BitVec.getLsbD_not, movImm_getLsbD _ _ hj,
    movImm_getLsbD _ _ hj, BitVec.getLsbD_allOnes]
  split
  case isTrue hin =>
    have hwidth : j - quarterLo hw < 16 := by omega
    simp [hwidth]
  case isFalse hout => simp [hj]

/-- What MOVZ does (R161). -/
theorem exec_movz_effect (rd : Reg) (mov : BitVec 16) (hw : BitVec 2) (s : State) :
    ∃ t, exec (.movz rd mov hw) s = .next t ∧ OnlyX s t rd (movImm mov hw) ∧ t.flags = s.flags :=
  s.finishX_effect rd (movImm mov hw)

/-- What MOVK does (R162). -/
theorem exec_movk_effect (rd : Reg) (mov : BitVec 16) (hw : BitVec 2) (s : State) :
    ∃ t, exec (.movk rd mov hw) s = .next t ∧ OnlyX s t rd (movKeep (s.readX rd) mov hw) ∧ t.flags = s.flags :=
  s.finishX_effect rd (movKeep (s.readX rd) mov hw)

/-- Settles O17: the row of each fixes its opcode alone, and its result is the immediate in its quarter over zeros or over
the old value. -/
theorem moveWide : Obligations.MoveWide := by
  intro s rd mov hw
  refine ⟨⟨decode_encode_of_row (i := .movz rd mov hw) (Laws.RowOf.movz ..), ?movz⟩,
    ⟨decode_encode_of_row (i := .movk rd mov hw) (Laws.RowOf.movk ..), ?movk⟩⟩
  case movz =>
    obtain ⟨t, ht, honly, hflags⟩ := exec_movz_effect rd mov hw s
    exact ⟨t, _, ht, honly, hflags, fun _ => movImm_getLsbD mov hw⟩
  case movk =>
    obtain ⟨t, ht, honly, hflags⟩ := exec_movk_effect rd mov hw s
    exact ⟨t, _, ht, honly, hflags, fun _ => movKeep_getLsbD (s.readX rd) mov hw⟩

/-! ## A word as its four quarters (R160) -/

/-- The 16-bit quarter of a word that a move wide with position `h` acts on. -/
def quarter (v : Word) (h : BitVec 2) : BitVec 16 := v.extractLsb' (quarterLo h) 16

theorem quarter_getLsbD (v : Word) (h : BitVec 2) {i : Nat} (hi : i < 16) :
    (quarter v h).getLsbD i = v.getLsbD (quarterLo h + i) := by
  simp [quarter, hi]

/-- The four quarters determine the word. -/
theorem eq_of_quarter_eq {v w : Word} (h : ∀ q, quarter v q = quarter w q) : v = w := by
  apply BitVec.eq_of_getLsbD_eq
  intro j hj
  have hlo : quarterLo (BitVec.ofNat 2 (j / 16)) + j % 16 = j := by
    rw [quarterLo, BitVec.toNat_ofNat]
    omega
  have hmod : j % 16 < 16 := Nat.mod_lt _ (by decide)
  rw [← hlo, ← quarter_getLsbD v _ hmod, ← quarter_getLsbD w _ hmod, h]

/-- A bit of quarter `h` lies in quarter `q` only where the two are one. -/
theorem mem_quarter_iff (h q : BitVec 2) {i : Nat} (hi : i < 16) :
    (quarterLo q ≤ quarterLo h + i ∧ quarterLo h + i < quarterLo q + 16) ↔ h = q := by
  rw [BitVec.toNat_eq, quarterLo, quarterLo]
  omega

/-- MOVK replaces one quarter and keeps the others (R162). -/
theorem quarter_movKeep (old : Word) (mov : BitVec 16) (q h : BitVec 2) :
    quarter (movKeep old mov q) h = if h = q then mov else quarter old h := by
  apply BitVec.eq_of_getLsbD_eq
  intro i hi
  have hlt : quarterLo h + i < 64 := by
    rw [quarterLo]
    omega
  rw [quarter_getLsbD _ _ hi, movKeep_getLsbD _ _ _ hlt]
  simp only [mem_quarter_iff h q hi]
  split
  case isTrue heq => rw [heq, Nat.add_sub_cancel_left]
  case isFalse => rw [quarter_getLsbD _ _ hi]

/-- MOVZ is MOVK on a register that holds 0. -/
theorem movKeep_zero (mov : BitVec 16) (hw : BitVec 2) : movKeep 0 mov hw = movImm mov hw := by
  simp [movKeep]

/-- MOVZ writes one quarter and clears the others (R161). -/
theorem quarter_movImm (mov : BitVec 16) (q h : BitVec 2) :
    quarter (movImm mov q) h = if h = q then mov else 0 := by
  have hzero : quarter 0 h = 0 := BitVec.extractLsb'_zero
  rw [← movKeep_zero, quarter_movKeep, hzero]

/-! ## Building a constant (R163) -/

/-- The written register reads the result, unless it is XZR. -/
theorem WritesX.readX_self {s t : State} {rd : Reg} {v : Word} (h : WritesX s t rd v) (hrd : rd ≠ 31) :
    t.readX rd = v :=
  (h rd).trans (if_pos ⟨rfl, hrd⟩)

theorem WritesX.readX_of_ne {s t : State} {rd r : Reg} {v : Word} (h : WritesX s t rd v) (hr : r ≠ rd) :
    t.readX r = s.readX r :=
  (h r).trans (if_neg fun hand => hr hand.1)

theorem execSeq_cons_of_next {i : Instr} {s t : State} (h : exec i s = .next t) (rest : List Instr) :
    execSeq (i :: rest) s = execSeq rest t := by
  rw [execSeq, h]

/-- MOVKs of the quarters `qs` of `k`, in any order, complete `k` where the register already holds its other quarters. -/
theorem execSeq_movk_completes {rd : Reg} (hrd : rd ≠ 31) (k : Word) (qs : List (BitVec 2)) (s : State)
    (hrest : ∀ h, h ∉ qs → quarter (s.readX rd) h = quarter k h) :
    ∃ t, execSeq (qs.map fun h => .movk rd (quarter k h) h) s = .next t ∧
      t.readX rd = k ∧ ∀ r, r ≠ rd → t.readX r = s.readX r := by
  induction qs generalizing s with
  | nil => exact ⟨s, rfl, eq_of_quarter_eq fun h => hrest h List.not_mem_nil, fun _ _ => rfl⟩
  | cons q qs ih =>
    obtain ⟨u, hu, honly, -⟩ := exec_movk_effect rd (quarter k q) q s
    have hquarters : ∀ h, h ∉ qs → quarter (u.readX rd) h = quarter k h := by
      intro h hnot
      rw [honly.x.readX_self hrd, quarter_movKeep]
      split
      case isTrue heq => rw [heq]
      case isFalse hne => exact hrest h (List.not_mem_cons_of_ne_of_not_mem hne hnot)
    obtain ⟨t, ht, hk, hframe⟩ := ih u hquarters
    exact ⟨t, (execSeq_cons_of_next hu _).trans ht, hk,
      fun r hr => (hframe r hr).trans (honly.x.readX_of_ne hr)⟩

/-- Settles O18: after the MOVZ, every quarter that no MOVK writes is the constant's: it is the MOVZ's own, or zero in
both. -/
theorem anyConstantByMoves : Obligations.AnyConstantByMoves := by
  intro s rd k q qs hrd hnonzero
  obtain ⟨u, hu, honly, -⟩ := exec_movz_effect rd (quarter k q) q s
  have hrest : ∀ h, h ∉ qs → quarter (u.readX rd) h = quarter k h := by
    intro h hnot
    rw [honly.x.readX_self hrd, quarter_movImm]
    split
    case isTrue heq => rw [heq]
    case isFalse hne => exact (not_not.1 fun hk => hnot (hnonzero h hne hk)).symm
  obtain ⟨t, ht, hk, hframe⟩ := execSeq_movk_completes hrd k qs u hrest
  exact ⟨t, (execSeq_cons_of_next hu _).trans ht, hk,
    fun r hr => (hframe r hr).trans (honly.x.readX_of_ne hr)⟩

end Sys2Proof.Machine

namespace Sys2Proof.Machine

/-! # Control transfer (R170 to R178) -/

/-! ## What a branch does -/

/-- Setting the pc changes the pc alone. -/
theorem State.setPc_onlyPc (s : State) (pc : Word) : OnlyPc s (s.setPc pc) pc where
  pc := rfl
  x _ := rfl
  flags := rfl
  d _ := rfl
  mem _ := rfl
  monitor := rfl
  system := ⟨rfl, rfl, rfl⟩

/-- What an instruction that ends in `branchIf` does, for a test that decides `p`. -/
theorem State.branchIf_effect (s : State) {taken : Bool} {p : Prop} [Decidable p] (htest : taken = true ↔ p)
    (offset : Word) :
    ∃ t, s.branchIf taken offset = .next t ∧ OnlyPc s t (if p then s.pc + offset else s.pc + 4) := by
  refine ⟨_, s.branchIf_eq taken offset, ?_⟩
  simp only [htest]
  exact s.setPc_onlyPc _

/-! ## B, BL and BR -/

/-- What BL does: the link register receives the pc of the BL itself, plus 4 (R172). -/
theorem execBl_effect (br : BitVec 26) (s : State) :
    ∃ t, execBl br s = .next t ∧ t.pc = s.pc + branchAddr br ∧ WritesX s t Reg.lr (s.pc + 4) ∧ t.flags = s.flags ∧
      SameD s t ∧ SameMemory s t ∧ t.monitor = s.monitor ∧ SameSystem s t := by
  have hmem : SameMemory s (s.writeX Reg.lr (s.pc + 4)) := fun a => congrArg (Memory.read · a.toNat) (s.writeX_mem ..)
  exact ⟨(s.writeX Reg.lr (s.pc + 4)).setPc (s.pc + branchAddr br), rfl, rfl, fun r => s.readX_writeX Reg.lr r (s.pc + 4),
    s.writeX_flags .., fun i => s.readD_writeX Reg.lr (s.pc + 4) i, hmem, s.writeX_monitor ..,
    ⟨s.writeX_esr .., s.writeX_faultRecord .., s.writeX_params ..⟩⟩

/-- Settles O19: the row of each fixes its opcode alone, and B and BR do no more than set the pc. -/
theorem unconditionalBranches : Obligations.UnconditionalBranches := by
  intro s br rn rm rd sh
  refine ⟨⟨decode_encode_of_row (i := .b br) (Laws.RowOf.b br), ?b⟩,
    ⟨decode_encode_of_row (i := .bl br) (Laws.RowOf.bl br), ?bl⟩,
    ⟨decode_encodeR 0b11010110000 (fun _ rn _ => .br rn) 58 rfl, ?br⟩⟩
  case b => exact ⟨_, rfl, s.setPc_onlyPc (s.pc + branchAddr br)⟩
  case bl => exact execBl_effect br s
  case br => exact ⟨_, rfl, s.setPc_onlyPc (s.readX rn)⟩

/-! ## B.cond -/

/-- The word and the effect of a B.cond whose meaning is `bCond c` (R175). -/
theorem decode_and_effect_of_bCond {i : Instr} (hrow : Laws.RowOf.Statement i) {s : State} (c : Cond)
    {cbr : BitVec 19} (hexec : exec i s = bCond c cbr s) :
    decode (encode i) = .ok i ∧ ∃ t, exec i s = .next t ∧
      OnlyPc s t (if condHolds c s.flags then s.pc + condBranchAddr cbr else s.pc + 4) := by
  rw [hexec]
  exact ⟨decode_encode_of_row hrow, s.branchIf_effect Iff.rfl (condBranchAddr cbr)⟩

/-- A step on the word of a B.cond with a reserved condition takes the exception Unknown (R175, R301). -/
theorem step_bCond_reserved {s : State} {cbr : BitVec 19} {c : BitVec 5} (hc : 14 ≤ c.toNat)
    (hrec : s.faultRecord = none) (hfetch : fetch s.params s.pc = .word (encodeCB 0b01010100 cbr c)) :
    ∃ t, step s = .next t ∧ Raised s t .unknown none := by
  obtain ⟨e, he⟩ := decodeFor_error (p := s.params) (.inl (decode_bCond_reserved cbr c hc))
  exact ⟨_, step_of_decodeFor_error hrec hfetch he, s.takeException_raised .unknown⟩

/-- Settles O20: each condition number has its row and its meaning is `bCond` of its condition; the rows of B.cond allow
no other number. -/
theorem conditionalBranches : Obligations.ConditionalBranches := by
  refine ⟨fun s cbr => ?_, fun s cbr c => step_bCond_reserved⟩
  exact ⟨decode_and_effect_of_bCond (Laws.RowOf.bEq cbr) .eq rfl,
    decode_and_effect_of_bCond (Laws.RowOf.bNe cbr) .ne rfl,
    decode_and_effect_of_bCond (Laws.RowOf.bHs cbr) .hs rfl,
    decode_and_effect_of_bCond (Laws.RowOf.bLo cbr) .lo rfl,
    decode_and_effect_of_bCond (Laws.RowOf.bMi cbr) .mi rfl,
    decode_and_effect_of_bCond (Laws.RowOf.bPl cbr) .pl rfl,
    decode_and_effect_of_bCond (Laws.RowOf.bVs cbr) .vs rfl,
    decode_and_effect_of_bCond (Laws.RowOf.bVc cbr) .vc rfl,
    decode_and_effect_of_bCond (Laws.RowOf.bHi cbr) .hi rfl,
    decode_and_effect_of_bCond (Laws.RowOf.bLs cbr) .ls rfl,
    decode_and_effect_of_bCond (Laws.RowOf.bGe cbr) .ge rfl,
    decode_and_effect_of_bCond (Laws.RowOf.bLt cbr) .lt rfl,
    decode_and_effect_of_bCond (Laws.RowOf.bGt cbr) .gt rfl,
    decode_and_effect_of_bCond (Laws.RowOf.bLe cbr) .le rfl⟩

/-! ## CBZ and CBNZ -/

/-- Settles O21: the row of each fixes its opcode alone, and its test compares the whole register with 0. -/
theorem compareAndBranch : Obligations.CompareAndBranch := by
  intro s rt cbr
  refine ⟨⟨decode_encode_of_row (i := .cbz rt cbr) (Laws.RowOf.cbz rt cbr), ?cbz⟩,
    ⟨decode_encode_of_row (i := .cbnz rt cbr) (Laws.RowOf.cbnz rt cbr), ?cbnz⟩⟩
  case cbz => exact s.branchIf_effect beq_iff_eq (condBranchAddr cbr)
  case cbnz => exact s.branchIf_effect bne_iff_ne (condBranchAddr cbr)

end Sys2Proof.Machine

namespace Sys2Proof.Machine

/-! # Integer loads and stores (R191 to R199) -/

/-! ## Loads -/

/-- Zero extension from the size of a load changes nothing: the value has that size already. -/
theorem State.loadThen_zeroExtend (s : State) (exclusive : Bool) (addr : Word) {n : Nat} (hn : n ≤ 8)
    (use : Word → State) :
    s.loadThen exclusive addr n (fun v => use ((v.setWidth (8 * n)).setWidth 64)) = s.loadThen exclusive addr n use := by
  obtain ⟨hlt, -⟩ := s.mem.valueAt_load s.params.byteOrder addr hn
  have hself : ((s.mem.load s.params.byteOrder addr n).setWidth (8 * n)).setWidth 64 =
      s.mem.load s.params.byteOrder addr n := by
    apply BitVec.eq_of_toNat_eq
    rw [BitVec.toNat_setWidth, BitVec.toNat_setWidth, Nat.mod_eq_of_lt hlt, Nat.mod_eq_of_lt (BitVec.isLt _)]
  rw [State.loadThen, State.loadThen, hself]

/-- Instruction `i` loads general register `rt` with `ext` of the `n`-byte value at the address of its D-format
operands (R190). -/
structure LoadsX (i : Instr) (rt rn : Reg) (addr : BitVec 9) (n : Nat) (ext : Word → Word) : Prop where
  size : n ≤ 8
  exec_eq : ∀ s, exec i s = s.loadThen false (s.dAddr rn addr) n fun v => s.writeX rt (ext v)

theorem ldur_loadsX (rt rn : Reg) (addr : BitVec 9) : LoadsX (.ldur rt rn addr) rt rn addr 8 id :=
  ⟨by decide, fun _ => rfl⟩

theorem ldurb_loadsX (rt rn : Reg) (addr : BitVec 9) : LoadsX (.ldurb rt rn addr) rt rn addr 1 id :=
  ⟨by decide, fun s => s.loadThen_zeroExtend false _ (by decide) (s.writeX rt)⟩

theorem ldurh_loadsX (rt rn : Reg) (addr : BitVec 9) : LoadsX (.ldurh rt rn addr) rt rn addr 2 id :=
  ⟨by decide, fun s => s.loadThen_zeroExtend false _ (by decide) (s.writeX rt)⟩

theorem ldursw_loadsX (rt rn : Reg) (addr : BitVec 9) :
    LoadsX (.ldursw rt rn addr) rt rn addr 4 fun v => (v.setWidth 32).signExtend 64 :=
  ⟨by decide, fun _ => rfl⟩

section

variable {i : Instr} {rt rn : Reg} {addr : BitVec 9} {n : Nat} {ext : Word → Word}

/-- What an integer load does where its access is allowed: it writes its register and moves on. -/
theorem LoadsX.effect (hi : LoadsX i rt rn addr n ext) (s : State)
    (hok : AccessAllowed s.params false (s.dAddr rn addr) n) :
    ∃ t v, exec i s = .next t ∧ ValueAt s.mem s.params.byteOrder (s.dAddr rn addr) n v ∧ OnlyX s t rt (ext v) ∧
      t.flags = s.flags := by
  obtain ⟨v, hv, hload⟩ := loadThen_valueAt hi.size hok fun v => s.writeX rt (ext v)
  obtain ⟨t, ht, hframe⟩ := s.finishX_effect rt (ext v)
  exact ⟨t, v, (hi.exec_eq s).trans (hload.trans ht), hv, hframe⟩

/-- An integer load whose access is not allowed takes a Data Abort (R304). -/
theorem LoadsX.raised (hi : LoadsX i rt rn addr n ext) (s : State)
    (hnot : ¬ AccessAllowed s.params false (s.dAddr rn addr) n) :
    ∃ t, exec i s = .next t ∧ Raised s t .dataAbort (some (s.dAddr rn addr)) := by
  rw [hi.exec_eq]
  exact loadThen_raised hnot _

end

/-- Settles O26: each is a load of its size in the sense of `LoadsX`. -/
theorem integerLoads : Obligations.IntegerLoads := by
  intro s rt rn addr
  have ldur := ldur_loadsX rt rn addr
  have ldurb := ldurb_loadsX rt rn addr
  have ldurh := ldurh_loadsX rt rn addr
  have ldursw := ldursw_loadsX rt rn addr
  exact ⟨ldur.effect s, ldurb.effect s, ldurh.effect s, ldursw.effect s,
    ldur.raised s, ldurb.raised s, ldurh.raised s, ldursw.raised s,
    decode_encode_of_row (i := .ldur rt rn addr) (Laws.RowOf.ldur ..),
    decode_encode_of_row (i := .ldurb rt rn addr) (Laws.RowOf.ldurb ..),
    decode_encode_of_row (i := .ldurh rt rn addr) (Laws.RowOf.ldurh ..),
    decode_encode_of_row (i := .ldursw rt rn addr) (Laws.RowOf.ldursw ..)⟩

/-! ## Stores -/

/-- Instruction `i` stores the low `n` bytes of general register `rt` at the address of its D-format operands
(R190). -/
structure StoresX (i : Instr) (rt rn : Reg) (addr : BitVec 9) (n : Nat) : Prop where
  size : n ≤ 8
  exec_eq : ∀ s, exec i s = s.storeThen (s.dAddr rn addr) n (s.readX rt)

theorem stur_storesX (rt rn : Reg) (addr : BitVec 9) : StoresX (.stur rt rn addr) rt rn addr 8 :=
  ⟨by decide, fun _ => rfl⟩

theorem sturb_storesX (rt rn : Reg) (addr : BitVec 9) : StoresX (.sturb rt rn addr) rt rn addr 1 :=
  ⟨by decide, fun _ => rfl⟩

theorem sturh_storesX (rt rn : Reg) (addr : BitVec 9) : StoresX (.sturh rt rn addr) rt rn addr 2 :=
  ⟨by decide, fun _ => rfl⟩

theorem sturw_storesX (rt rn : Reg) (addr : BitVec 9) : StoresX (.sturw rt rn addr) rt rn addr 4 :=
  ⟨by decide, fun _ => rfl⟩

section

variable {i : Instr} {rt rn : Reg} {addr : BitVec 9} {n : Nat}

/-- The state an integer store answers where its access is allowed. -/
theorem StoresX.exec_eq_of_allowed (hi : StoresX i rt rn addr n) {s : State}
    (hok : AccessAllowed s.params false (s.dAddr rn addr) n) :
    exec i s = .next (s.storeMem (s.dAddr rn addr) n (s.readX rt)).nextPc :=
  (hi.exec_eq s).trans (storeThen_eq_of_allowed hok _)

/-- What an integer store does where its access is allowed: it writes its bytes and moves on. -/
theorem StoresX.effect (hi : StoresX i rt rn addr n) {s : State} (hm : s.mem.wf)
    (hok : AccessAllowed s.params false (s.dAddr rn addr) n) :
    ∃ t, exec i s = .next t ∧ OnlyStore s t (s.dAddr rn addr) n (s.readX rt) :=
  ⟨_, hi.exec_eq_of_allowed hok, State.storeMem_onlyStore hm _ hi.size _⟩

/-- An integer store whose access is not allowed takes a Data Abort (R304). -/
theorem StoresX.raised (hi : StoresX i rt rn addr n) (s : State)
    (hnot : ¬ AccessAllowed s.params false (s.dAddr rn addr) n) :
    ∃ t, exec i s = .next t ∧ Raised s t .dataAbort (some (s.dAddr rn addr)) := by
  rw [hi.exec_eq]
  exact storeThen_raised hnot _

end

/-- Settles O27: each is a store of its size in the sense of `StoresX`. -/
theorem integerStores : Obligations.IntegerStores := by
  intro s rt rn addr hm
  have stur := stur_storesX rt rn addr
  have sturb := sturb_storesX rt rn addr
  have sturh := sturh_storesX rt rn addr
  have sturw := sturw_storesX rt rn addr
  exact ⟨stur.effect hm, sturb.effect hm, sturh.effect hm, sturw.effect hm,
    stur.raised s, sturb.raised s, sturh.raised s, sturw.raised s,
    decode_encode_of_row (i := .stur rt rn addr) (Laws.RowOf.stur ..),
    decode_encode_of_row (i := .sturb rt rn addr) (Laws.RowOf.sturb ..),
    decode_encode_of_row (i := .sturh rt rn addr) (Laws.RowOf.sturh ..),
    decode_encode_of_row (i := .sturw rt rn addr) (Laws.RowOf.sturw ..)⟩

/-! ## A load after a store (R199) -/

/-- The part that is the whole datum, in either byte order: its low `n` bytes. -/
theorem partOf_whole (o : ByteOrder) (n : Nat) (v : Word) : partOf o n v 0 n = (v.setWidth (8 * n)).setWidth 64 := by
  have hlt : v.toNat % 2 ^ (8 * n) < 2 ^ 64 := (Nat.mod_le _ _).trans_lt v.isLt
  apply BitVec.eq_of_toNat_eq
  rw [partOf_whole_toNat, BitVec.toNat_setWidth, BitVec.toNat_setWidth, Nat.mod_eq_of_lt hlt]

/-- An integer load straight after an `n`-byte store of `v` at its address reads `ext` of the low `n` bytes of `v`; the
store need not be an integer one. -/
theorem LoadsX.exec_after_storeMem {i : Instr} {rd rb : Reg} {off : BitVec 9} {n : Nat} {ext : Word → Word}
    (hi : LoadsX i rd rb off n ext) (hrd : rd ≠ 31) {s : State} (hm : s.mem.wf)
    (hok : AccessAllowed s.params false (s.dAddr rb off) n) (v : Word) :
    ∃ t, exec i (s.storeMem (s.dAddr rb off) n v).nextPc = .next t ∧
      t.readX rd = ext ((v.setWidth (8 * n)).setWidth 64) := by
  obtain ⟨t, w, ht, hw, honly, -⟩ := hi.effect (s.storeMem (s.dAddr rb off) n v).nextPc hok
  have hstored : (s.mem.store s.params.byteOrder (s.dAddr rb off) n v).load s.params.byteOrder (s.dAddr rb off) n =
      (v.setWidth (8 * n)).setWidth 64 :=
    (Memory.load_store_first hm _ _ hi.size v le_rfl).trans (partOf_whole ..)
  have hvalue : w = (v.setWidth (8 * n)).setWidth 64 := (Memory.load_eq_of_valueAt hi.size hw).symm.trans hstored
  exact ⟨t, ht, hvalue ▸ honly.x.readX_self hrd⟩

/-- An integer store, then an integer load of the same size at the same address. -/
theorem LoadsX.execSeq_after_store {st ld : Instr} {rt rn rd rb : Reg} {addr off : BitVec 9} {n : Nat}
    {ext : Word → Word} (hld : LoadsX ld rd rb off n ext) (hst : StoresX st rt rn addr n) (hrd : rd ≠ 31) {s : State}
    (hm : s.mem.wf) (haddr : s.dAddr rb off = s.dAddr rn addr)
    (hok : AccessAllowed s.params false (s.dAddr rn addr) n) :
    ∃ t, execSeq [st, ld] s = .next t ∧ t.readX rd = ext (((s.readX rt).setWidth (8 * n)).setWidth 64) := by
  obtain ⟨t, ht, hread⟩ := hld.exec_after_storeMem hrd hm (haddr ▸ hok) (s.readX rt)
  rw [haddr] at ht
  exact ⟨t, (execSeq_cons_of_next (hst.exec_eq_of_allowed hok) [ld]).trans (execSeq_cons_of_next ht []), hread⟩

/-- Settles O28: what the load hands to its extension is the zero-extended part stored, whatever the byte order. -/
theorem loadAfterStore : Obligations.LoadAfterStore := by
  intro s rt rn rd rb addr off hm hrd haddr
  refine ⟨fun hok => ?double, fun hok => ?word, fun hok => ?half, fun hok => ?byte⟩
  case double =>
    obtain ⟨t, ht, hread⟩ := (ldur_loadsX rd rb off).execSeq_after_store (stur_storesX rt rn addr) hrd hm haddr hok
    exact ⟨t, ht, by simpa using hread⟩
  case word =>
    obtain ⟨t, ht, hread⟩ := (ldursw_loadsX rd rb off).execSeq_after_store (sturw_storesX rt rn addr) hrd hm haddr hok
    exact ⟨t, ht, by simpa using hread⟩
  case half => exact (ldurh_loadsX rd rb off).execSeq_after_store (sturh_storesX rt rn addr) hrd hm haddr hok
  case byte => exact (ldurb_loadsX rd rb off).execSeq_after_store (sturb_storesX rt rn addr) hrd hm haddr hok

end Sys2Proof.Machine

namespace Sys2Proof.Machine

/-! # The exclusive pair (R210 to R214) -/

/-! ## LDXR (R211) -/

/-- What an access of LDXR or STXR needs: natural alignment under either setting of MISALIGNED, and every byte mapped
(R54, R59). -/
theorem accessAllowed_exclusive_iff (p : Params) (a : Word) (n : Nat) :
    AccessAllowed p true a n ↔ a.toNat % n = 0 ∧ ∀ j, j < n → mapped p (a + BitVec.ofNat 64 j) = true := by
  simp [AccessAllowed]

/-- What an LDXR does where its access is allowed: on the state with the monitor armed, a register write. -/
theorem exec_ldxr_effect (rt rn : Reg) (addr : BitVec 9) {s : State}
    (hok : AccessAllowed s.params true (s.dAddr rn addr) 8) :
    ∃ t v, exec (.ldxr rt rn addr) s = .next t ∧ ValueAt s.mem s.params.byteOrder (s.dAddr rn addr) 8 v ∧
      OnlyX (s.setMonitor (some (s.dAddr rn addr))) t rt v ∧ t.flags = s.flags := by
  obtain ⟨v, hv, hload⟩ :=
    loadThen_valueAt (le_refl 8) hok fun v => (s.setMonitor (some (s.dAddr rn addr))).writeX rt v
  obtain ⟨t, ht, hframe⟩ := (s.setMonitor (some (s.dAddr rn addr))).finishX_effect rt v
  exact ⟨t, v, hload.trans ht, hv, hframe⟩

/-- An LDXR whose access is not allowed takes a Data Abort (R304). -/
theorem exec_ldxr_raised (rt rn : Reg) (addr : BitVec 9) {s : State}
    (hnot : ¬ AccessAllowed s.params true (s.dAddr rn addr) 8) :
    ∃ t, exec (.ldxr rt rn addr) s = .next t ∧ Raised s t .dataAbort (some (s.dAddr rn addr)) :=
  loadThen_raised hnot _

/-- Settles O29: its access is an exclusive one, which is allowed exactly in the first clause. -/
theorem loadExclusive : Obligations.LoadExclusive := by
  intro s rt rn addr a
  have hiff := accessAllowed_exclusive_iff s.params a 8
  refine ⟨fun h8 hmap => ?loads, fun h8 => ?misaligned, fun _ hunmapped => ?unmapped,
    decode_encode_of_row (Laws.RowOf.ldxr rt rn addr)⟩
  case loads =>
    obtain ⟨t, v, ht, hv, honly, hflags⟩ := exec_ldxr_effect rt rn addr (hiff.2 ⟨h8, hmap⟩)
    obtain ⟨hx, hpc, hd, hmem, hmonitor, hesr, hrecord, hparams⟩ := honly
    exact ⟨t, v, ht, hv, hx, hmonitor, hpc, hflags, hd, hmem, hesr, hrecord, hparams⟩
  case misaligned => exact exec_ldxr_raised rt rn addr fun hok => h8 (hiff.1 hok).1
  case unmapped => exact exec_ldxr_raised rt rn addr fun hok => hunmapped (hiff.1 hok).2

/-! ## STXR (R212) -/

/-- The state after STXR's free input is the state before, but perhaps for the count of free values. -/
theorem State.spurious_state (s : State) : s.spurious.2 = s ∨ s.spurious.2 = s.draw.2 := by
  rcases s.spurious_cases with ⟨-, h⟩ | ⟨-, h⟩
  · exact .inl (by rw [h])
  · exact .inr (by rw [h])

/-- Taking a free value moves no byte. -/
theorem State.mem_of_eq_or_draw {s t : State} (h : t = s ∨ t = s.draw.2) : t.mem = s.mem := by
  rcases h with rfl | rfl <;> rfl

theorem State.params_of_eq_or_draw {s t : State} (h : t = s ∨ t = s.draw.2) : t.params = s.params := by
  rcases h with rfl | rfl <;> rfl

/-- Without STXR_SPURIOUS_FAIL no STXR fails spuriously (R212). -/
theorem State.spurious_fst_of_not_set {s : State} (h : s.params.stxrSpurious = false) : s.spurious.1 = false := by
  rw [State.spurious, h]
  rfl

/-- An exception raised after taking a free value is one raised from the state before. -/
theorem Raised.of_eq_or_draw {s s' t : State} {cls : ExcClass} {info : Option Word} (hs : s' = s ∨ s' = s.draw.2)
    (h : Raised s' t cls info) : Raised s t cls info := by
  obtain ⟨hrecord, hec, hil, hmonitor, hpc, hx, hflags, hd, hmem, hparams⟩ := h
  rcases hs with rfl | rfl <;> exact ⟨hrecord, hec, hil, hmonitor, hpc, hx, hflags, hd, hmem, hparams⟩

theorem OnlyStatus.of_eq_or_draw {s s' t : State} {rm : Reg} {status : Word} (hs : s' = s ∨ s' = s.draw.2)
    (h : OnlyStatus s' t rm status) : OnlyStatus s t rm status := by
  obtain ⟨hx, hmonitor, hpc, hflags, hd, hesr, hrecord, hparams⟩ := h
  rcases hs with rfl | rfl <;> exact ⟨hx, hmonitor, hpc, hflags, hd, hesr, hrecord, hparams⟩

/-- The frame of an STXR does not look at memory. -/
theorem OnlyStatus.of_storeMem {s t : State} {addr : Word} {n : Nat} {v : Word} {rm : Reg} {status : Word}
    (h : OnlyStatus (s.storeMem addr n v) t rm status) : OnlyStatus s t rm status := by
  obtain ⟨hx, hmonitor, hpc, hflags, hd, hesr, hrecord, hparams⟩ := h
  exact ⟨hx, hmonitor, hpc, hflags, hd, hesr, hrecord, hparams⟩

/-- What an STXR that ends in `finishStxr` does from there on. -/
theorem finishStxr_effect (rm : Reg) (status : Word) (s : State) :
    ∃ t, finishStxr rm status s = .next t ∧ t.mem = s.mem ∧ OnlyStatus s t rm status := by
  obtain ⟨hx, hpc, hd, -, hmonitor, hesr, hrecord, hparams⟩ :=
    (s.setMonitor none).writeX_setFlags_nextPc_onlyX rm status s.flags
  exact ⟨_, rfl, (s.setMonitor none).writeX_mem rm status, hx, hmonitor, hpc,
    (s.setMonitor none).writeX_flags rm status, hd, hesr, hrecord, hparams⟩

theorem aligned_iff (addr : Word) (n : Nat) : aligned addr n = true ↔ addr.toNat % n = 0 := beq_iff_eq

/-- Memory that is the result of a store holds the datum and is otherwise unchanged. -/
theorem StoredAt.of_mem_eq {s t : State} (hm : s.mem.wf) {addr : Word} {n : Nat} (hn : n ≤ 8) {v : Word}
    (h : t.mem = s.mem.store s.params.byteOrder addr n v) : StoredAt s t addr n v where
  stored j hj := by rw [h, Memory.read_store hm _ addr hn v hj]
  kept a ha := by rw [h, Memory.read_store_of_ne _ _ addr n v a ha]

section

variable {s : State} (rt rm : Reg) {rn : Reg}

/-- A misaligned STXR takes a Data Abort. -/
theorem exec_stxr_misaligned (h8 : (s.readX rn).toNat % 8 ≠ 0) :
    ∃ t, exec (.stxr rt rm rn) s = .next t ∧ Raised s t .dataAbort (some (s.readX rn)) := by
  have heq : execStxr rt rm rn s = s.raise (.dataAbort (s.readX rn)) := by
    rw [execStxr, if_neg (mt (aligned_iff ..).1 h8)]
  exact ⟨_, heq, s.takeException_raised _⟩

variable (h8 : (s.readX rn).toNat % 8 = 0)
include h8

/-- An STXR whose pair is not atomic, or that fails spuriously, leaves memory alone and gives status 1. -/
theorem exec_stxr_fails (hnot : ¬ (s.monitor = some (s.readX rn) ∧ s.spurious.1 = false)) :
    ∃ t, exec (.stxr rt rm rn) s = .next t ∧ t.mem = s.mem ∧ OnlyStatus s t rm 1 := by
  have heq : execStxr rt rm rn s = finishStxr rm 1 s.spurious.2 := by
    rw [execStxr, if_pos ((aligned_iff ..).2 h8), if_neg hnot]
  obtain ⟨t, ht, hmem, hstatus⟩ := finishStxr_effect rm 1 s.spurious.2
  rw [State.mem_of_eq_or_draw s.spurious_state] at hmem
  exact ⟨t, heq.trans ht, hmem, hstatus.of_eq_or_draw s.spurious_state⟩

variable (harmed : s.monitor = some (s.readX rn)) (hspurious : s.spurious.1 = false)
include harmed hspurious

/-- An atomic STXR whose bytes are mapped stores the register and gives status 0. -/
theorem exec_stxr_stores
    (hmapped : ∀ j, j < 8 → mapped s.params (s.readX rn + BitVec.ofNat 64 j) = true) :
    ∃ t, exec (.stxr rt rm rn) s = .next t ∧ t.mem = s.mem.store s.params.byteOrder (s.readX rn) 8 (s.readX rt) ∧
      OnlyStatus s t rm 0 := by
  have heq : execStxr rt rm rn s = finishStxr rm 0 (s.spurious.2.storeMem (s.readX rn) 8 (s.readX rt)) := by
    rw [execStxr, if_pos ((aligned_iff ..).2 h8), if_pos ⟨harmed, hspurious⟩, if_pos ((allMapped_iff ..).2 hmapped)]
  obtain ⟨t, ht, hmem, hstatus⟩ := finishStxr_effect rm 0 (s.spurious.2.storeMem (s.readX rn) 8 (s.readX rt))
  rw [State.storeMem_mem, State.mem_of_eq_or_draw s.spurious_state, State.params_of_eq_or_draw s.spurious_state] at hmem
  exact ⟨t, heq.trans ht, hmem, hstatus.of_storeMem.of_eq_or_draw s.spurious_state⟩

/-- An atomic STXR with a byte that is not mapped takes a Data Abort. -/
theorem exec_stxr_unmapped
    (hunmapped : ¬ ∀ j, j < 8 → mapped s.params (s.readX rn + BitVec.ofNat 64 j) = true) :
    ∃ t, exec (.stxr rt rm rn) s = .next t ∧ Raised s t .dataAbort (some (s.readX rn)) := by
  have heq : execStxr rt rm rn s = s.spurious.2.raise (.dataAbort (s.readX rn)) := by
    rw [execStxr, if_pos ((aligned_iff ..).2 h8), if_pos ⟨harmed, hspurious⟩,
      if_neg (mt (allMapped_iff ..).1 hunmapped)]
  exact ⟨_, heq, (s.spurious.2.takeException_raised _).of_eq_or_draw s.spurious_state⟩

end

/-- Settles O30, by the paths of R212; under STXR_SPURIOUS_FAIL the free input decides whether it is the failing one. -/
theorem storeExclusive : Obligations.StoreExclusive := by
  intro s rt rm rn sh hm a unmapped stores fails
  have hfails (h8 : a.toNat % 8 = 0) (hnot : ¬ (s.monitor = some a ∧ s.spurious.1 = false)) :
      ∃ t, exec (.stxr rt rm rn) s = .next t ∧ fails t := by
    obtain ⟨t, ht, hmem, hstatus⟩ := exec_stxr_fails rt rm h8 hnot
    exact ⟨t, ht, fun b => by rw [hmem], hstatus⟩
  have hstores (h8 : a.toNat % 8 = 0) (harmed : s.monitor = some a) (hspurious : s.spurious.1 = false)
      (hmapped : ¬ unmapped) : ∃ t, exec (.stxr rt rm rn) s = .next t ∧ stores t := by
    obtain ⟨t, ht, hmem, hstatus⟩ := exec_stxr_stores rt rm h8 harmed hspurious (not_not.1 hmapped)
    exact ⟨t, ht, .of_mem_eq hm (le_refl 8) hmem, hstatus⟩
  refine ⟨exec_stxr_misaligned rt rm, fun h8 hnot => hfails h8 fun h => hnot h.1,
    fun h8 harmed hset => hstores h8 harmed (State.spurious_fst_of_not_set hset),
    fun h8 harmed hset => exec_stxr_unmapped rt rm h8 harmed (State.spurious_fst_of_not_set hset),
    fun h8 harmed _ => ?spurious, decode_encodeR 0b11001000000 (fun rt rn rm => .stxr rt rm rn) 49 rfl⟩
  by_cases hspurious : s.spurious.1 = false
  · by_cases hmapped : unmapped
    · obtain ⟨t, ht, hraised⟩ := exec_stxr_unmapped rt rm h8 harmed hspurious hmapped
      exact ⟨t, ht, .inr (.inr ⟨hmapped, hraised⟩)⟩
    · obtain ⟨t, ht, hend⟩ := hstores h8 harmed hspurious hmapped
      exact ⟨t, ht, .inr (.inl ⟨hmapped, hend⟩)⟩
  · obtain ⟨t, ht, hend⟩ := hfails h8 fun h => hspurious h.2
    exact ⟨t, ht, .inl hend⟩

/-! ## What changes the monitor (R213) -/

/-- The monitor after an instruction that raises nothing. -/
def monitorAfter (i : Instr) (s : State) : Option Word :=
  match i with
  | .ldxr _ rn addr => some (s.dAddr rn addr)
  | .stxr _ _ _ => none
  | _ => s.monitor

theorem monitorAfter_of_ne {i : Instr} (hldxr : ∀ rt rn addr, i ≠ .ldxr rt rn addr)
    (hstxr : ∀ rt rm rn, i ≠ .stxr rt rm rn) (s : State) : monitorAfter i s = s.monitor := by
  cases i with
  | ldxr rt rn addr => exact absurd rfl (hldxr rt rn addr)
  | stxr rt rm rn => exact absurd rfl (hstxr rt rm rn)
  | _ => rfl

theorem monitorAfter_of_mnemonic_ne {i : Instr} (hldxr : i.mnemonic ≠ .ldxr) (hstxr : i.mnemonic ≠ .stxr)
    (s : State) : monitorAfter i s = s.monitor :=
  monitorAfter_of_ne (fun _ _ _ h => hldxr (congrArg Instr.mnemonic h))
    (fun _ _ _ h => hstxr (congrArg Instr.mnemonic h)) s

/-- `t` is a state in which an instruction that raises nothing ends, from `s`, with the monitor at `m`. -/
structure Completes (s : State) (m : Option Word) (t : State) : Prop where
  monitor : t.monitor = m
  system : SameSystem s t
  mem : s.mem.wf → t.mem.wf

/-- The instruction completes from `s` with the monitor at `m`, or it raises an exception. -/
def CompletesOrRaises (s : State) (m : Option Word) (run : Result) : Prop :=
  ∃ t, run = .next t ∧ (Completes s m t ∨ ∃ cls info, Raised s t cls info)

theorem Completes.next {s t : State} {m : Option Word} (h : Completes s m t) : CompletesOrRaises s m (.next t) :=
  ⟨t, rfl, .inl h⟩

/-- What writes no memory keeps its form. -/
theorem Completes.of_mem_eq {s t : State} {m : Option Word} (hmonitor : t.monitor = m) (hsystem : SameSystem s t)
    (hmem : t.mem = s.mem) : Completes s m t :=
  ⟨hmonitor, hsystem, fun hm => hmem ▸ hm⟩

theorem SameSystem.trans {s t u : State} (hst : SameSystem s t) (htu : SameSystem t u) : SameSystem s u :=
  ⟨htu.esr.trans hst.esr, htu.faultRecord.trans hst.faultRecord, htu.params.trans hst.params⟩

theorem Completes.trans {s t u : State} {m : Option Word} (hst : Completes s m t) (htu : Completes t t.monitor u) :
    Completes s m u :=
  ⟨htu.monitor.trans hst.monitor, hst.system.trans htu.system, fun hm => htu.mem (hst.mem hm)⟩

/-! ### The state operations -/

theorem State.completes_setPc (s : State) (pc : Word) : Completes s s.monitor (s.setPc pc) :=
  .of_mem_eq rfl ⟨rfl, rfl, rfl⟩ rfl

theorem State.completes_setFlags (s : State) (f : Flags) : Completes s s.monitor (s.setFlags f) :=
  .of_mem_eq rfl ⟨rfl, rfl, rfl⟩ rfl

theorem State.completes_setMonitor (s : State) (m : Option Word) : Completes s m (s.setMonitor m) :=
  .of_mem_eq rfl ⟨rfl, rfl, rfl⟩ rfl

theorem State.completes_writeX (s : State) (rd : Reg) (v : Word) : Completes s s.monitor (s.writeX rd v) :=
  .of_mem_eq (s.writeX_monitor rd v) ⟨s.writeX_esr rd v, s.writeX_faultRecord rd v, s.writeX_params rd v⟩
    (s.writeX_mem rd v)

theorem State.completes_writeD (s : State) (rd : Reg) (v : Word) : Completes s s.monitor (s.writeD rd v) :=
  .of_mem_eq rfl ⟨rfl, rfl, rfl⟩ rfl

theorem State.completes_writeS (s : State) (rd : Reg) (v : Word32) : Completes s s.monitor (s.writeS rd v) :=
  .of_mem_eq rfl ⟨rfl, rfl, rfl⟩ rfl

theorem State.completes_storeMem (s : State) (addr : Word) (n : Nat) (v : Word) :
    Completes s s.monitor (s.storeMem addr n v) :=
  ⟨rfl, ⟨rfl, rfl, rfl⟩, fun hm => State.wf_storeMem hm addr n v⟩

/-- Taking a free value first makes no difference. -/
theorem Completes.of_eq_or_draw {s s' t : State} (hs : s' = s ∨ s' = s.draw.2) (h : Completes s' s'.monitor t) :
    Completes s s.monitor t := by
  obtain ⟨hmonitor, ⟨hesr, hrecord, hparams⟩, hmem⟩ := h
  rcases hs with rfl | rfl <;> exact ⟨hmonitor, ⟨hesr, hrecord, hparams⟩, hmem⟩

/-! ### The ends of a meaning -/

theorem Completes.finish {s t : State} {m : Option Word} (h : Completes s m t) : CompletesOrRaises s m t.finish :=
  (h.trans (t.completes_setPc _)).next

theorem completesOrRaises_raise (s : State) (m : Option Word) (e : Exc) : CompletesOrRaises s m (s.raise e) :=
  ⟨_, rfl, .inr ⟨e.cls, e.info, s.takeException_raised e⟩⟩

theorem completesOrRaises_finishX (s : State) (rd : Reg) (v : Word) :
    CompletesOrRaises s s.monitor (s.finishX rd v) :=
  (s.completes_writeX rd v).finish

theorem State.completes_writeX_setFlags (s : State) (rd : Reg) (v : Word) (f : Flags) :
    Completes s s.monitor ((s.writeX rd v).setFlags f) :=
  (s.completes_writeX rd v).trans ((s.writeX rd v).completes_setFlags f)

theorem completesOrRaises_finishXFlags (s : State) (rd : Reg) (r : Word × Flags) :
    CompletesOrRaises s s.monitor (s.finishXFlags rd r) :=
  (s.completes_writeX_setFlags rd r.1 r.2).finish

theorem completesOrRaises_finishLogical (rd : Reg) (r : Word) (s : State) :
    CompletesOrRaises s s.monitor (finishLogical rd r s) :=
  ((State.completes_writeX_setFlags _ rd r _).of_eq_or_draw (s.resolve_state ..)).finish

theorem completesOrRaises_finishChoice (rd : Reg) (c : Choice Word) (s : State) :
    CompletesOrRaises s s.monitor (finishChoice rd c s) :=
  ((State.completes_writeX _ rd _).of_eq_or_draw (s.resolve_state ..)).finish

theorem completesOrRaises_branchIf (s : State) (taken : Bool) (offset : Word) :
    CompletesOrRaises s s.monitor (s.branchIf taken offset) := by
  rw [s.branchIf_eq]
  exact (s.completes_setPc _).next

theorem completesOrRaises_withFp {s : State} {m : Option Word} {run : Result} (h : CompletesOrRaises s m run) :
    CompletesOrRaises s m (s.withFp run) := by
  rcases s.withFp_cases run with ⟨-, heq⟩ | ⟨-, heq⟩ <;> rw [heq]
  · exact h
  · exact completesOrRaises_raise ..

theorem completesOrRaises_loadThen {s : State} {m : Option Word} {use : Word → State}
    (h : ∀ v, Completes s m (use v)) (exclusive : Bool) (addr : Word) (n : Nat) :
    CompletesOrRaises s m (s.loadThen exclusive addr n use) := by
  rcases s.loadThen_cases exclusive addr n use with ⟨-, heq⟩ | ⟨-, heq⟩ <;> rw [heq]
  · exact (h _).finish
  · exact completesOrRaises_raise ..

theorem completesOrRaises_storeThen (s : State) (addr : Word) (n : Nat) (v : Word) :
    CompletesOrRaises s s.monitor (s.storeThen addr n v) := by
  rcases s.storeThen_cases addr n v with ⟨-, heq⟩ | ⟨-, heq⟩ <;> rw [heq]
  · exact (s.completes_storeMem addr n v).finish
  · exact completesOrRaises_raise ..

/-! ### The meanings with more than one end -/

theorem completesOrRaises_execSdiv (rd rn rm : Reg) (s : State) :
    CompletesOrRaises s s.monitor (execSdiv rd rn rm s) := by
  unfold execSdiv
  split
  · exact completesOrRaises_finishChoice ..
  · split
    · exact completesOrRaises_finishChoice ..
    · exact completesOrRaises_finishX ..

theorem completesOrRaises_execUdiv (rd rn rm : Reg) (s : State) :
    CompletesOrRaises s s.monitor (execUdiv rd rn rm s) := by
  unfold execUdiv
  split
  · exact completesOrRaises_finishChoice ..
  · exact completesOrRaises_finishX ..

theorem completesOrRaises_fpSingle (op : FpOp) (rd rn rm : Reg) (s : State) :
    CompletesOrRaises s s.monitor (fpSingle op rd rn rm s) :=
  completesOrRaises_withFp ((State.completes_writeS _ rd _).of_eq_or_draw (fpArith32_state ..)).finish

theorem completesOrRaises_fpDouble (op : FpOp) (rd rn rm : Reg) (s : State) :
    CompletesOrRaises s s.monitor (fpDouble op rd rn rm s) :=
  completesOrRaises_withFp ((State.completes_writeD _ rd _).of_eq_or_draw (fpArith64_state ..)).finish

theorem completesOrRaises_fpCompareInto (rel : FpRel) (s : State) :
    CompletesOrRaises s s.monitor (fpCompareInto rel s) :=
  completesOrRaises_withFp ((State.completes_setFlags _ _).of_eq_or_draw (fcmpFlags_state ..)).finish

theorem completesOrRaises_stxr (rt rm rn : Reg) (s : State) : CompletesOrRaises s none (exec (.stxr rt rm rn) s) := by
  by_cases h8 : (s.readX rn).toNat % 8 = 0
  · by_cases hatomic : s.monitor = some (s.readX rn) ∧ s.spurious.1 = false
    · obtain ⟨harmed, hspurious⟩ := hatomic
      by_cases hmapped : ∀ j, j < 8 → mapped s.params (s.readX rn + BitVec.ofNat 64 j) = true
      · obtain ⟨t, ht, hmem, hstatus⟩ := exec_stxr_stores rt rm h8 harmed hspurious hmapped
        exact ⟨t, ht, .inl ⟨hstatus.monitor, hstatus.system, fun hm => hmem ▸ Memory.wf_store hm ..⟩⟩
      · obtain ⟨t, ht, hraised⟩ := exec_stxr_unmapped rt rm h8 harmed hspurious hmapped
        exact ⟨t, ht, .inr ⟨_, _, hraised⟩⟩
    · obtain ⟨t, ht, hmem, hstatus⟩ := exec_stxr_fails rt rm h8 hatomic
      exact ⟨t, ht, .inl (.of_mem_eq hstatus.monitor hstatus.system hmem)⟩
  · obtain ⟨t, ht, hraised⟩ := exec_stxr_misaligned rt rm h8
    exact ⟨t, ht, .inr ⟨_, _, hraised⟩⟩

theorem completesOrRaises_ldxr (rt rn : Reg) (addr : BitVec 9) (s : State) :
    CompletesOrRaises s (some (s.dAddr rn addr)) (exec (.ldxr rt rn addr) s) :=
  completesOrRaises_loadThen
    (fun v => (s.completes_setMonitor (some (s.dAddr rn addr))).trans (State.completes_writeX _ rt v)) ..

/-- R213 for every instruction. -/
theorem exec_completesOrRaises (i : Instr) (s : State) : CompletesOrRaises s (monitorAfter i s) (exec i s) := by
  cases i with
  | add | addi | sub | subi | and | andi | orr | orri | eor | eori | lsl | lsr | movz | movk | mul | smulh | umulh =>
    exact completesOrRaises_finishX ..
  | adds | addis | subs | subis => exact completesOrRaises_finishXFlags ..
  | ands | andis => exact completesOrRaises_finishLogical ..
  | sdiv => exact completesOrRaises_execSdiv ..
  | udiv => exact completesOrRaises_execUdiv ..
  | bl => exact ((s.completes_writeX Reg.lr (s.pc + 4)).trans (State.completes_setPc _ _)).next
  | b | br => exact (s.completes_setPc _).next
  | bEq | bNe | bHs | bLo | bMi | bPl | bVs | bVc | bHi | bLs | bGe | bLt | bGt | bLe | cbz | cbnz =>
    exact completesOrRaises_branchIf ..
  | ldur | ldurb | ldurh | ldursw =>
    simp only [exec, execLdur, execLdurb, execLdurh, execLdursw]
    exact completesOrRaises_loadThen (fun _ => s.completes_writeX ..) ..
  | ldxr => exact completesOrRaises_ldxr ..
  | stur | sturb | sturh | sturw => exact completesOrRaises_storeThen ..
  | stxr => exact completesOrRaises_stxr ..
  | fadds | fsubs | fmuls | fdivs => exact completesOrRaises_fpSingle ..
  | faddd | fsubd | fmuld | fdivd => exact completesOrRaises_fpDouble ..
  | fcmps | fcmpd => exact completesOrRaises_fpCompareInto ..
  | ldurs => exact completesOrRaises_withFp (completesOrRaises_loadThen (fun _ => s.completes_writeS ..) ..)
  | ldurd => exact completesOrRaises_withFp (completesOrRaises_loadThen (fun _ => s.completes_writeD ..) ..)
  | sturs | sturd => exact completesOrRaises_withFp (completesOrRaises_storeThen ..)

/-- Settles O31: an instruction completes with the monitor `monitorAfter` gives, or takes an exception. -/
theorem monitorChanges : Obligations.MonitorChanges := by
  refine ⟨fun i s t hs h => ?_, fun s e => s.takeException_monitor e, rfl, fun l => rfl⟩
  obtain ⟨t', ht', hend⟩ := exec_completesOrRaises i s
  cases ht'.symm.trans h
  rcases hend with ⟨hmonitor, hsystem, -⟩ | ⟨cls, info, hraised⟩
  · refine ⟨fun hne => absurd (hsystem.faultRecord.trans hs) hne, fun _ => ⟨?ldxr, ?stxr, ?other⟩⟩
    case ldxr =>
      rintro rt rn addr rfl
      exact hmonitor
    case stxr =>
      rintro rt rm rn rfl
      exact hmonitor
    case other => exact fun hldxr hstxr => hmonitor.trans (monitorAfter_of_ne hldxr hstxr s)
  · exact ⟨fun _ => hraised.monitor, fun hnone => nomatch hraised.record.symm.trans hnone⟩

/-! ## A paired STXR succeeds (R214) -/

/-- An instruction that leaves no fault record raised nothing. -/
theorem CompletesOrRaises.completes {s t : State} {m : Option Word} {run : Result} (h : CompletesOrRaises s m run)
    (hrun : run = .next t) (hrecord : t.faultRecord = none) : Completes s m t := by
  obtain ⟨t', ht', hend⟩ := h
  cases ht'.symm.trans hrun
  rcases hend with hcompletes | ⟨cls, info, hraised⟩
  · exact hcompletes
  · exact nomatch hraised.record.symm.trans hrecord

theorem State.completes_refl (s : State) : Completes s s.monitor s := .of_mem_eq rfl ⟨rfl, rfl, rfl⟩ rfl

/-- A sequence runs its first instruction to a next state, and the others from there. -/
theorem execSeq_cons_eq_next {i : Instr} {is : List Instr} {s t : State} (h : execSeq (i :: is) s = .next t) :
    ∃ u, exec i s = .next u ∧ execSeq is u = .next t := by
  obtain ⟨u, hu, -⟩ := exec_completesOrRaises i s
  exact ⟨u, hu, (execSeq_cons_of_next hu is).symm.trans h⟩

/-- Instructions other than LDXR and STXR that end with no fault record keep the monitor. A fault record of a state in
between would still stand at the end. -/
theorem execSeq_completes {is : List Instr} (hother : ∀ i ∈ is, i.mnemonic ≠ .ldxr ∧ i.mnemonic ≠ .stxr)
    {s t : State} (h : execSeq is s = .next t) (hrecord : t.faultRecord = none) : Completes s s.monitor t := by
  induction is generalizing s with
  | nil =>
    cases h
    exact State.completes_refl _
  | cons i is ih =>
    obtain ⟨u, hu, hrest⟩ := execSeq_cons_eq_next h
    obtain ⟨hi, his⟩ := List.forall_mem_cons.1 hother
    have hut : Completes u u.monitor t := ih his hrest
    have hsu := (exec_completesOrRaises i s).completes hu (hut.system.faultRecord.symm.trans hrecord)
    rw [monitorAfter_of_mnemonic_ne hi.1 hi.2] at hsu
    exact hsu.trans hut

/-- An LDXR that raises nothing was allowed its access. -/
theorem accessAllowed_of_exec_ldxr {rt rn : Reg} {addr : BitVec 9} {s t : State}
    (h : exec (.ldxr rt rn addr) s = .next t) (hrecord : t.faultRecord = none) :
    AccessAllowed s.params true (s.dAddr rn addr) 8 := by
  by_contra hnot
  obtain ⟨t', ht', hraised⟩ := exec_ldxr_raised rt rn addr hnot
  cases ht'.symm.trans h
  exact nomatch hraised.record.symm.trans hrecord

/-- Settles O32: the LDXR arms the monitor at an address whose access is allowed, and nothing in between changes the
monitor or MEM_MAP. -/
theorem pairedStoreSucceeds : Obligations.PairedStoreSucceeds := by
  intro s t rt rn rv rm rb addr between hm _ hset hother h hrecord hbase
  obtain ⟨u, hldxr, hbetween⟩ := execSeq_cons_eq_next h
  have hut : Completes u u.monitor t := execSeq_completes hother hbetween hrecord
  have hurecord : u.faultRecord = none := hut.system.faultRecord.symm.trans hrecord
  have hst : Completes s (some (s.dAddr rn addr)) t :=
    ((exec_completesOrRaises (.ldxr rt rn addr) s).completes hldxr hurecord).trans hut
  obtain ⟨h8, hmapped⟩ := (accessAllowed_exclusive_iff ..).1 (accessAllowed_of_exec_ldxr hldxr hurecord)
  rw [← hst.system.params] at hset hmapped
  rw [← hbase] at h8 hmapped hst ⊢
  obtain ⟨v, hv, hmem, hstatus⟩ :=
    exec_stxr_stores rv rm h8 hst.monitor (State.spurious_fst_of_not_set hset) hmapped
  exact ⟨v, hv, .of_mem_eq (hst.mem hm) (le_refl 8) hmem, hstatus⟩

end Sys2Proof.Machine

namespace Sys2Proof.Machine

/-! # Multiply and divide (R220 to R226) -/

/-! ## The halves of the product -/

theorem mulHighUnsigned_toNat (a b : Word) : (mulHighUnsigned a b).toNat = a.toNat * b.toNat / 2 ^ 64 := by
  have hlt : a.toNat * b.toNat < 2 ^ 64 * 2 ^ 64 := Nat.mul_lt_mul'' a.isLt b.isLt
  rw [mulHighUnsigned, BitVec.toNat_ofNat]
  exact Nat.mod_eq_of_lt (Nat.div_lt_of_lt_mul hlt)

/-- The unsigned 128-bit product (R226). -/
theorem mulHighUnsigned_mul_add (a b : Word) :
    (mulHighUnsigned a b).toNat * 2 ^ 64 + (a * b).toNat = a.toNat * b.toNat := by
  rw [mulHighUnsigned_toNat, BitVec.toNat_mul, Nat.div_add_mod']

/-- Bits 63:0 of the signed product are MUL's result, which does not depend on the signs (R221). -/
theorem extractLsb'_ofInt_toInt_mul (a b : Word) :
    (BitVec.ofInt 128 (a.toInt * b.toInt)).extractLsb' 0 64 = a * b := by
  have hlow (p : Int) : (BitVec.ofInt 128 p).extractLsb' 0 64 = BitVec.ofInt 64 p := by
    apply BitVec.eq_of_toNat_eq
    rw [BitVec.extractLsb'_toNat, BitVec.toNat_ofInt, BitVec.toNat_ofInt, Nat.shiftRight_zero]
    omega
  rw [hlow, BitVec.ofInt_mul, BitVec.ofInt_toInt, BitVec.ofInt_toInt]

/-- The signed 128-bit product (R226): the two halves are the halves of a number that 128 bits hold. -/
theorem mulHighSigned_append_toInt (a b : Word) : (mulHighSigned a b ++ a * b).toInt = a.toInt * b.toInt := by
  have hlo : -2 ^ (64 * 2 - 2) ≤ a.toInt * b.toInt := BitVec.le_toInt_mul_toInt
  have hhi : a.toInt * b.toInt ≤ 2 ^ (64 * 2 - 2) := BitVec.toInt_mul_toInt_le
  rw [mulHighSigned, ← extractLsb'_ofInt_toInt_mul, BitVec.extractLsb'_append_extractLsb']
  exact BitVec.toInt_ofInt_eq_self (by decide) (by omega) (by omega)

/-- The high half of the signed product is the quotient by 2^64, rounded down (R222). -/
theorem mulHighSigned_toInt (a b : Word) : (mulHighSigned a b).toInt = (a.toInt * b.toInt).fdiv (2 ^ 64) := by
  have hlow := (a * b).isLt
  rw [Int.fdiv_eq_ediv_of_nonneg _ (by decide), ← mulHighSigned_append_toInt, BitVec.toInt_append,
    if_neg (by decide)]
  omega

theorem mulHighSigned_comm (a b : Word) : mulHighSigned a b = mulHighSigned b a := by
  rw [mulHighSigned, mulHighSigned, Int.mul_comm]

theorem mulHighUnsigned_comm (a b : Word) : mulHighUnsigned a b = mulHighUnsigned b a := by
  rw [mulHighUnsigned, mulHighUnsigned, Nat.mul_comm]

/-- Settles O33: MUL's row fixes its shamt too, the two others leave it free, and each meaning ends in `finishX`. -/
theorem multiply : Obligations.Multiply := by
  intro s rd rn rm sh
  refine ⟨⟨decode_encode_of_row (i := .mul rd rn rm) (Laws.RowOf.mul ..), ?mul⟩,
    ⟨decode_encodeR 0b10011011010 .smulh 37 rfl, ?smulh⟩, ⟨decode_encodeR 0b10011011110 .umulh 38 rfl, ?umulh⟩⟩
  case mul =>
    obtain ⟨t, ht, honly, hflags⟩ := s.finishX_effect rd (s.readX rn * s.readX rm)
    exact ⟨t, _, ht, honly, hflags, BitVec.toNat_mul ..⟩
  case smulh =>
    obtain ⟨t, ht, honly, hflags⟩ := s.finishX_effect rd (mulHighSigned (s.readX rn) (s.readX rm))
    exact ⟨t, _, ht, honly, hflags, mulHighSigned_toInt ..⟩
  case umulh =>
    obtain ⟨t, ht, honly, hflags⟩ := s.finishX_effect rd (mulHighUnsigned (s.readX rn) (s.readX rm))
    exact ⟨t, _, ht, honly, hflags, mulHighUnsigned_toNat ..⟩

/-! ## The quotients -/

theorem quotUnsigned_toNat (a b : Word) : (quotUnsigned a b).toNat = a.toNat / b.toNat := by
  rw [quotUnsigned, BitVec.toNat_ofNat]
  exact Nat.mod_eq_of_lt ((Nat.div_le_self ..).trans_lt a.isLt)

/-- The truncating quotient is the library's. -/
theorem quotSigned_eq_sdiv (a b : Word) : quotSigned a b = a.sdiv b := by
  rw [← BitVec.toInt_inj, quotSigned, BitVec.toInt_ofInt, BitVec.toInt_sdiv]

theorem toInt_eq_min_iff {a : Word} : a.toInt = -2 ^ 63 ↔ a = 0x8000000000000000 :=
  BitVec.toInt_inj (y := (0x8000000000000000 : Word))

theorem toInt_eq_neg_one_iff {b : Word} : b.toInt = -1 ↔ b = 0xFFFFFFFFFFFFFFFF :=
  BitVec.toInt_inj (y := (0xFFFFFFFFFFFFFFFF : Word))

/-- Outside the overflow the quotient is exact (R224). -/
theorem quotSigned_toInt {a b : Word} (h : ¬ (a.toInt = -2 ^ 63 ∧ b.toInt = -1)) :
    (quotSigned a b).toInt = a.toInt.tdiv b.toInt := by
  rw [toInt_eq_min_iff, toInt_eq_neg_one_iff] at h
  rw [quotSigned_eq_sdiv]
  exact BitVec.toInt_sdiv_of_ne_or_ne a b (not_and_or.1 h)

/-- A nonzero remainder has the sign of the dividend (R224). -/
theorem tmod_sign_cases (a b : Int) : a.tmod b = 0 ∨ (0 < a.tmod b ∧ 0 < a) ∨ (a.tmod b < 0 ∧ a < 0) := by
  have hpos : 0 ≤ a → 0 ≤ a.tmod b := Int.tmod_nonneg b
  have hneg : 0 ≤ -a → 0 ≤ (-a).tmod b := Int.tmod_nonneg b
  rw [Int.neg_tmod] at hneg
  omega

/-! ## The two instructions -/

/-- What an instruction that ends in `finishChoice` does: it writes what the parameter fixes, or some value. -/
theorem finishChoice_effect (s : State) (rd : Reg) (c : Choice Word) :
    ∃ t v, finishChoice rd c s = .next t ∧ OnlyX s t rd v ∧ t.flags = s.flags ∧ ∀ q, c = .fixed q → v = q := by
  obtain ⟨t, ht, honly, hflags⟩ := (s.resolve c id).2.finishX_effect rd (s.resolve c id).1
  refine ⟨t, _, ht, honly.of_eq_or_draw (s.resolve_state ..), hflags.trans ?flags, ?value⟩
  case flags =>
    rcases s.resolve_state c id with hsame | hdraw
    · rw [hsame]
    · rw [hdraw, State.draw_flags]
  case value =>
    rintro q rfl
    rfl

theorem exec_sdiv_of_zero {s : State} {rm : Reg} (rd rn : Reg) (hzero : s.readX rm = 0) :
    exec (.sdiv rd rn rm) s = finishChoice rd s.params.divByZero s :=
  if_pos hzero

theorem exec_sdiv_of_overflow {s : State} {rn rm : Reg} (rd : Reg)
    (hover : (s.readX rn).toInt = -2 ^ 63 ∧ (s.readX rm).toInt = -1) :
    exec (.sdiv rd rn rm) s = finishChoice rd s.params.sdivOverflow s := by
  rw [toInt_eq_min_iff, toInt_eq_neg_one_iff] at hover
  have hzero : s.readX rm ≠ 0 := hover.2 ▸ by decide
  exact (if_neg hzero).trans (if_pos hover)

theorem exec_sdiv_of_quotient {s : State} {rn rm : Reg} (rd : Reg) (hzero : s.readX rm ≠ 0)
    (hover : ¬ ((s.readX rn).toInt = -2 ^ 63 ∧ (s.readX rm).toInt = -1)) :
    exec (.sdiv rd rn rm) s = s.finishX rd (quotSigned (s.readX rn) (s.readX rm)) := by
  rw [toInt_eq_min_iff, toInt_eq_neg_one_iff] at hover
  exact (if_neg hzero).trans (if_neg hover)

theorem exec_udiv_of_zero {s : State} {rm : Reg} (rd rn : Reg) (hzero : s.readX rm = 0) :
    exec (.udiv rd rn rm) s = finishChoice rd s.params.divByZero s :=
  if_pos hzero

theorem exec_udiv_of_ne_zero {s : State} {rm : Reg} (rd rn : Reg) (hzero : s.readX rm ≠ 0) :
    exec (.udiv rd rn rm) s = s.finishX rd (quotUnsigned (s.readX rn) (s.readX rm)) :=
  if_neg hzero

/-- Settles O34: the row of each fixes its shamt too, and each corner ends in `finishChoice` with its parameter. -/
theorem divide : Obligations.Divide := by
  intro s rd rn rm
  refine ⟨⟨decode_encode_of_row (i := .sdiv rd rn rm) (Laws.RowOf.sdiv ..), ?sdiv⟩,
    ⟨decode_encode_of_row (i := .udiv rd rn rm) (Laws.RowOf.udiv ..), ?udiv⟩, rfl, rfl⟩
  case sdiv =>
    by_cases hzero : s.readX rm = 0
    · obtain ⟨t, v, ht, honly, hflags, hfixed⟩ := finishChoice_effect s rd s.params.divByZero
      have hne : (s.readX rm).toInt ≠ -1 := hzero ▸ by decide
      exact ⟨t, v, (exec_sdiv_of_zero rd rn hzero).trans ht, honly, hflags, fun _ => hfixed,
        fun _ hm => absurd hm hne, fun h => absurd hzero h⟩
    · by_cases hover : (s.readX rn).toInt = -2 ^ 63 ∧ (s.readX rm).toInt = -1
      · obtain ⟨t, v, ht, honly, hflags, hfixed⟩ := finishChoice_effect s rd s.params.sdivOverflow
        exact ⟨t, v, (exec_sdiv_of_overflow rd hover).trans ht, honly, hflags, fun h => absurd h hzero,
          fun _ _ => hfixed, fun _ h => absurd hover h⟩
      · obtain ⟨t, ht, honly, hflags⟩ := s.finishX_effect rd (quotSigned (s.readX rn) (s.readX rm))
        exact ⟨t, _, (exec_sdiv_of_quotient rd hzero hover).trans ht, honly, hflags, fun h => absurd h hzero,
          fun hn hm => absurd ⟨hn, hm⟩ hover, fun _ => quotSigned_toInt⟩
  case udiv =>
    by_cases hzero : s.readX rm = 0
    · obtain ⟨t, v, ht, honly, hflags, hfixed⟩ := finishChoice_effect s rd s.params.divByZero
      exact ⟨t, v, (exec_udiv_of_zero rd rn hzero).trans ht, honly, hflags, fun _ => hfixed,
        fun h => absurd hzero h⟩
    · obtain ⟨t, ht, honly, hflags⟩ := s.finishX_effect rd (quotUnsigned (s.readX rn) (s.readX rm))
      exact ⟨t, _, (exec_udiv_of_ne_zero rd rn hzero).trans ht, honly, hflags, fun h => absurd h hzero,
        fun _ => quotUnsigned_toNat ..⟩

/-- Settles O35: the halves make the exact product, and the remainder of a quotient is the dividend's modulo the
divisor. -/
theorem productAndQuotientLaws : Obligations.ProductAndQuotientLaws := by
  intro a b
  refine ⟨mulHighUnsigned_mul_add a b, mulHighSigned_append_toInt a b, BitVec.mul_comm a b, mulHighSigned_comm a b,
    mulHighUnsigned_comm a b, fun hb => ⟨a.toNat % b.toNat, ?unsigned, ?unsigned_lt⟩,
    fun hb hover => ⟨?magnitude, a.toInt.tmod b.toInt, ?signed, ?signed_lt, tmod_sign_cases ..⟩⟩
  case unsigned =>
    rw [quotUnsigned_toNat, Nat.div_add_mod']
  case unsigned_lt =>
    exact Nat.mod_lt _ (Nat.pos_of_ne_zero (BitVec.toNat_ne.1 hb))
  case magnitude =>
    rw [quotSigned_toInt hover]
    exact Int.natAbs_tdiv ..
  case signed =>
    rw [quotSigned_toInt hover, Int.tdiv_mul_add_tmod]
  case signed_lt =>
    rw [Int.natAbs_tmod]
    exact Nat.mod_lt _ (Int.natAbs_pos.2 (BitVec.toInt_ne.2 hb))

end Sys2Proof.Machine

namespace Sys2Proof.Machine

/-! # The floating-point formats (R240, R241) -/

/-- What the two formats of R240 have in common: some fraction, a positive bias, and normal numbers of more than one
exponent. -/
structure FpFormat.Proper (f : FpFormat) : Prop where
  fracBits : 1 ≤ f.fracBits
  bias : 1 ≤ f.bias
  expBits : 2 ≤ f.expBits

theorem FpFormat.single_proper : FpFormat.single.Proper := ⟨by decide, by decide, by decide⟩

theorem FpFormat.double_proper : FpFormat.double.Proper := ⟨by decide, by decide, by decide⟩

theorem FpFormat.proper_of_mem {f : FpFormat} (h : f ∈ [FpFormat.single, FpFormat.double]) : f.Proper := by
  simp only [List.mem_cons, List.not_mem_nil, or_false] at h
  rcases h with rfl | rfl
  · exact single_proper
  · exact double_proper

/-! ## The magnitude patterns and the quanta they denote -/

/-- The quanta of a magnitude pattern (R240, R241); at the infinity's and beyond, those the formula would give. -/
def FpFormat.quanta (f : FpFormat) (mag : Nat) : Nat :=
  if mag / 2 ^ f.fracBits = 0 then mag % 2 ^ f.fracBits
  else (2 ^ f.fracBits + mag % 2 ^ f.fracBits) * 2 ^ (mag / 2 ^ f.fracBits - 1)

/-- The exponent field of a pattern is that of its magnitude pattern. -/
theorem FpFormat.magOf_div (f : FpFormat) (bits : Nat) :
    f.magOf bits / 2 ^ f.fracBits = bits / 2 ^ f.fracBits % 2 ^ f.expBits := by
  rw [magOf, Nat.add_comm, pow_add, Nat.mod_mul_right_div_self]

/-- The fraction field of a pattern is that of its magnitude pattern. -/
theorem FpFormat.magOf_mod (f : FpFormat) (bits : Nat) : f.magOf bits % 2 ^ f.fracBits = bits % 2 ^ f.fracBits := by
  rw [magOf, Nat.add_comm, pow_add, Nat.mod_mul_right_mod]

theorem FpFormat.magOf_div_le_maxExp (f : FpFormat) (bits : Nat) : f.magOf bits / 2 ^ f.fracBits ≤ f.maxExp := by
  rw [magOf_div, maxExp]
  exact Nat.le_sub_one_of_lt (Nat.mod_lt _ (by positivity))

/-- A magnitude pattern is below the infinity's exactly where its exponent is below the all-ones one. -/
theorem FpFormat.lt_infMag_iff (f : FpFormat) (mag : Nat) : mag < f.infMag ↔ mag / 2 ^ f.fracBits < f.maxExp := by
  rw [infMag, Nat.div_lt_iff_lt_mul (by positivity)]

/-- Of the patterns with the all-ones exponent, the infinity's is the one with fraction 0. -/
theorem FpFormat.eq_infMag_iff (f : FpFormat) {mag : Nat} (h : mag / 2 ^ f.fracBits = f.maxExp) :
    mag = f.infMag ↔ mag % 2 ^ f.fracBits = 0 := by
  have hdiv := Nat.div_add_mod' mag (2 ^ f.fracBits)
  rw [h] at hdiv
  rw [infMag]
  omega

/-- The value of a pattern by its sign and its magnitude pattern: finite below the infinity's, a NaN above (R241). -/
theorem FpFormat.value_eq (f : FpFormat) (bits : Nat) :
    f.value bits =
      if f.magOf bits < f.infMag then .fin (f.signOf bits) (f.quanta (f.magOf bits))
      else if f.magOf bits = f.infMag then .inf (f.signOf bits)
      else .nan := by
  rcases (f.magOf_div_le_maxExp bits).lt_or_eq with hlt | heq
  · rw [if_pos ((f.lt_infMag_iff _).2 hlt), quanta, magOf_mod, magOf_div, apply_ite (FpVal.fin _)]
    exact if_neg (magOf_div f bits ▸ hlt.ne)
  · rw [if_neg (mt (f.lt_infMag_iff _).1 heq.not_lt), if_congr (f.eq_infMag_iff heq) rfl rfl, magOf_mod]
    exact if_pos (magOf_div f bits ▸ heq)

/-- `m` is a mantissa whose unit is 2 to the `k` quanta: a denormal's or the least normal numbers' at unit 1, and one
with the leading bit set at any other. -/
def FpFormat.IsMantissa (f : FpFormat) (k m : Nat) : Prop := (k = 0 ∨ 2 ^ f.fracBits ≤ m) ∧ m < 2 ^ (f.fracBits + 1)

/-- Every magnitude pattern is that of a mantissa. -/
theorem FpFormat.exists_isMantissa (f : FpFormat) (mag : Nat) :
    ∃ k m, f.IsMantissa k m ∧ mag = k * 2 ^ f.fracBits + m := by
  have hdiv := Nat.div_add_mod' mag (2 ^ f.fracBits)
  have hmod := Nat.mod_lt mag (show 0 < 2 ^ f.fracBits by positivity)
  have htwo : 2 ^ (f.fracBits + 1) = 2 * 2 ^ f.fracBits := by ring
  rcases hexp : mag / 2 ^ f.fracBits with _ | k
  · exact ⟨0, mag, ⟨.inl rfl, by simp [hexp] at hdiv; omega⟩, by simp⟩
  · refine ⟨k, 2 ^ f.fracBits + mag % 2 ^ f.fracBits, ⟨.inr (by omega), by omega⟩, ?_⟩
    rw [hexp, Nat.add_one_mul] at hdiv
    omega

theorem FpFormat.quanta_of_normal (f : FpFormat) (e : Nat) {m : Nat} (h : m < 2 ^ f.fracBits) :
    f.quanta ((e + 1) * 2 ^ f.fracBits + m) = (2 ^ f.fracBits + m) * 2 ^ e := by
  have hdiv : ((e + 1) * 2 ^ f.fracBits + m) / 2 ^ f.fracBits = e + 1 := by
    rw [Nat.add_comm, Nat.add_mul_div_right _ _ (by positivity), Nat.div_eq_of_lt h, Nat.zero_add]
  have hmod : ((e + 1) * 2 ^ f.fracBits + m) % 2 ^ f.fracBits = m := by
    rw [Nat.mul_add_mod_of_lt h]
  rw [quanta, hdiv, hmod, if_neg (by omega), Nat.add_sub_cancel]

theorem FpFormat.quanta_of_denormal (f : FpFormat) {m : Nat} (h : m < 2 ^ f.fracBits) : f.quanta m = m := by
  rw [quanta, Nat.div_eq_of_lt h, if_pos rfl, Nat.mod_eq_of_lt h]

/-- A mantissa of some unit denotes so many units; so does the next power of two, which carries into the exponent. -/
theorem FpFormat.quanta_of_mantissa (f : FpFormat) {k m : Nat} (hk : k = 0 ∨ 2 ^ f.fracBits ≤ m)
    (hm : m ≤ 2 ^ (f.fracBits + 1)) : f.quanta (k * 2 ^ f.fracBits + m) = m * 2 ^ k := by
  have htwo : 2 ^ (f.fracBits + 1) = 2 * 2 ^ f.fracBits := by ring
  rcases lt_or_ge m (2 ^ f.fracBits) with hlt | hge
  · obtain rfl : k = 0 := by omega
    simpa using f.quanta_of_denormal hlt
  · obtain ⟨r, rfl⟩ := Nat.exists_eq_add_of_le hge
    rcases Nat.lt_or_ge r (2 ^ f.fracBits) with hr | hr
    · rw [← f.quanta_of_normal k hr]
      congr 1
      ring
    · obtain rfl : r = 2 ^ f.fracBits := by omega
      calc f.quanta (k * 2 ^ f.fracBits + (2 ^ f.fracBits + 2 ^ f.fracBits))
        _ = f.quanta ((k + 1 + 1) * 2 ^ f.fracBits + 0) := by congr 1; ring
        _ = (2 ^ f.fracBits + 0) * 2 ^ (k + 1) := f.quanta_of_normal (k + 1) (by positivity)
        _ = (2 ^ f.fracBits + 2 ^ f.fracBits) * 2 ^ k := by ring

/-- A greater magnitude pattern denotes more quanta. -/
theorem FpFormat.quanta_strictMono (f : FpFormat) : StrictMono f.quanta := by
  refine strictMono_nat_of_lt_succ fun mag => ?_
  obtain ⟨k, m, ⟨hk, hm⟩, rfl⟩ := f.exists_isMantissa mag
  rw [Nat.add_assoc, f.quanta_of_mantissa hk hm.le, f.quanta_of_mantissa (by omega) hm]
  exact Nat.mul_lt_mul_of_pos_right (by omega) (by positivity)

/-! ## The rational numbers -/

theorem FpFormat.rat_strictMono (f : FpFormat) : StrictMono f.rat := fun p q h => by
  unfold rat
  gcongr

/-- The scale of a normal number's exponent, in quanta over the quanta in 1.0. -/
theorem FpFormat.two_zpow_sub_bias {f : FpFormat} (hf : f.Proper) (e : Nat) :
    (2 : ℚ) ^ (((e + 1 : Nat) : Int) - f.bias) = 2 ^ f.fracBits * 2 ^ e / 2 ^ f.unitLog := by
  have hbias := hf.bias
  rw [unitLog, eq_div_iff (by positivity), ← zpow_natCast, ← zpow_natCast, ← zpow_natCast,
    ← zpow_add₀ two_ne_zero, ← zpow_add₀ two_ne_zero]
  congr 1
  omega

/-- The formulas of R240 and R241 give the quanta of a magnitude pattern. -/
theorem FpFormat.magnitude_eq_rat {f : FpFormat} (hf : f.Proper) (mag : Nat) :
    f.magnitude mag = f.rat (f.quanta mag) := by
  rcases hexp : mag / 2 ^ f.fracBits with _ | e
  · have hscale := two_zpow_sub_bias hf 0
    rw [Nat.zero_add, Nat.cast_one] at hscale
    simp only [magnitude, rat, quanta, hexp, if_true]
    rw [hscale]
    field_simp
  · simp only [magnitude, rat, quanta, hexp, Nat.add_one_ne_zero, if_false, Nat.add_sub_cancel]
    rw [two_zpow_sub_bias hf]
    push_cast
    field_simp

theorem FpFormat.magnitude_strictMono {f : FpFormat} (hf : f.Proper) : StrictMono f.magnitude := by
  rw [show f.magnitude = f.rat ∘ f.quanta from funext (magnitude_eq_rat hf)]
  exact f.rat_strictMono.comp f.quanta_strictMono

/-- The number of a mantissa pattern. -/
theorem FpFormat.magnitude_of_mantissa {f : FpFormat} (hf : f.Proper) {k m : Nat} (hk : k = 0 ∨ 2 ^ f.fracBits ≤ m)
    (hm : m ≤ 2 ^ (f.fracBits + 1)) :
    f.magnitude (k * 2 ^ f.fracBits + m) = m * 2 ^ k / 2 ^ f.unitLog := by
  rw [magnitude_eq_rat hf, f.quanta_of_mantissa hk hm, rat]
  push_cast
  rfl

theorem FpFormat.two_le_maxExp {f : FpFormat} (hf : f.Proper) : 2 ≤ f.maxExp := by
  have : 2 ^ 2 ≤ 2 ^ f.expBits := Nat.pow_le_pow_right (by decide) hf.expBits
  rw [maxExp]
  omega

theorem FpFormat.infMag_even {f : FpFormat} (hf : f.Proper) : f.infMag % 2 = 0 := by
  obtain ⟨n, hn⟩ := Nat.exists_eq_add_of_le' hf.fracBits
  rw [infMag, hn, pow_succ, ← Nat.mul_assoc, Nat.mul_mod_left]

theorem FpFormat.infMag_pos {f : FpFormat} (hf : f.Proper) : 0 < f.infMag :=
  Nat.mul_pos (lt_of_lt_of_le two_pos (two_le_maxExp hf)) (by positivity)

/-- Rounding gives an infinity from half way between the largest finite number and what would follow it (R251). -/
theorem FpFormat.two_mul_overflowAt {f : FpFormat} (hf : f.Proper) :
    2 * f.overflowAt = f.magnitude (f.infMag - 1) + f.magnitude f.infMag := by
  obtain ⟨e, he⟩ := Nat.exists_eq_add_of_le' (two_le_maxExp hf)
  have hpos : 0 < 2 ^ f.fracBits := by positivity
  have hlast : f.infMag - 1 = e * 2 ^ f.fracBits + (2 ^ (f.fracBits + 1) - 1) := by
    rw [infMag, he, pow_succ, Nat.add_mul]
    omega
  have hinf : f.infMag = e * 2 ^ f.fracBits + 2 ^ (f.fracBits + 1) := by
    rw [infMag, he]
    ring
  rw [hlast, hinf, magnitude_of_mantissa hf (.inr (by rw [pow_succ]; omega)) (Nat.sub_le ..),
    magnitude_of_mantissa hf (.inr (by rw [pow_succ]; omega)) le_rfl, Nat.cast_sub Nat.one_le_two_pow]
  have hexp : (f.maxExp : Int) - 1 = ((e + 1 : Nat) : Int) := by omega
  rw [overflowAt, hexp, two_zpow_sub_bias hf]
  push_cast
  field_simp
  ring

/-! # Rounding to nearest, ties to even (R251) -/

/-- Half way between a magnitude pattern and the next lies below `x`, or at `x` where the pattern is odd: the next is
the one to round to. -/
def FpFormat.RoundsUp (f : FpFormat) (lo : Nat) (x : ℚ) : Prop :=
  f.magnitude lo + f.magnitude (lo + 1) < 2 * x ∨ (f.magnitude lo + f.magnitude (lo + 1) = 2 * x ∧ lo % 2 = 1)

section

variable {f : FpFormat} (hf : f.Proper) {lo : Nat} {x : ℚ} (hlo : f.magnitude lo ≤ x)
  (hhi : x < f.magnitude (lo + 1)) {up : Prop} [Decidable up] (hup : up ↔ f.RoundsUp lo x)
include hf hlo hhi hup

/-- Of two neighbouring magnitude patterns about `x` the nearer, on a tie the even one, is nearest of all. -/
theorem FpFormat.nearest_of_between {mag : Nat} (hmag : mag = if up then lo + 1 else lo) {p : Nat} (hne : p ≠ mag) :
    |f.magnitude mag - x| < |f.magnitude p - x| ∨ (|f.magnitude mag - x| = |f.magnitude p - x| ∧ mag % 2 = 0) := by
  have hmono := magnitude_strictMono hf
  have hdistLo : |f.magnitude lo - x| = x - f.magnitude lo := by rw [abs_sub_comm, abs_of_nonneg (by linarith)]
  have hdistHi : |f.magnitude (lo + 1) - x| = f.magnitude (lo + 1) - x := abs_of_nonneg (by linarith)
  have hbelow (h : p < lo) : |f.magnitude lo - x| < |f.magnitude p - x| := by
    have := hmono h
    rw [hdistLo, lt_abs]
    exact .inr (by linarith)
  have habove (h : lo + 1 < p) : |f.magnitude (lo + 1) - x| < |f.magnitude p - x| := by
    have := hmono h
    rw [hdistHi, lt_abs]
    exact .inl (by linarith)
  have hup' : up ↔ |f.magnitude (lo + 1) - x| < |f.magnitude lo - x| ∨
      (|f.magnitude (lo + 1) - x| = |f.magnitude lo - x| ∧ lo % 2 = 1) := by
    rw [hup, RoundsUp, hdistLo, hdistHi]
    refine or_congr ?_ (and_congr_left' ?_) <;> constructor <;> intro h <;> linarith
  by_cases hu : up
  · obtain rfl : mag = lo + 1 := hmag.trans (if_pos hu)
    have hle : |f.magnitude (lo + 1) - x| ≤ |f.magnitude lo - x| := (hup'.1 hu).elim le_of_lt fun h => h.1.le
    obtain h | rfl | h : p < lo ∨ p = lo ∨ lo + 1 < p := by omega
    · exact .inl (hle.trans_lt (hbelow h))
    · exact (hup'.1 hu).imp_right fun h => ⟨h.1, by omega⟩
    · exact .inl (habove h)
  · obtain rfl : mag = lo := hmag.trans (if_neg hu)
    rw [hup', not_or, not_lt, not_and] at hu
    obtain ⟨hle, htie⟩ := hu
    obtain h | rfl | h : p < mag ∨ p = mag + 1 ∨ mag + 1 < p := by omega
    · exact .inl (hbelow h)
    · exact hle.lt_or_eq.imp_right fun h => ⟨h, by have := htie h.symm; omega⟩
    · exact .inl (hle.trans_lt (habove h))

/-- Rounding gives the infinity's pattern or one beyond it exactly from `overflowAt` on: the largest finite pattern is
odd, so a tie goes up from there. -/
theorem FpFormat.overflowAt_le_iff : f.overflowAt ≤ x ↔ f.infMag ≤ if up then lo + 1 else lo := by
  have hmono := magnitude_strictMono hf
  have hoverflow := two_mul_overflowAt hf
  have heven := infMag_even hf
  have hpos := infMag_pos hf
  have hlast : f.magnitude (f.infMag - 1) < f.magnitude f.infMag := hmono (by omega)
  obtain h | h | h : lo + 1 < f.infMag ∨ lo + 1 = f.infMag ∨ f.infMag ≤ lo := by omega
  · have hmag : f.magnitude (lo + 1) ≤ f.magnitude (f.infMag - 1) := hmono.monotone (by omega)
    exact iff_of_false (by linarith) (by split <;> omega)
  · have hlo' : lo = f.infMag - 1 := by omega
    have hodd : lo % 2 = 1 := by omega
    rw [← hlo', ← h] at hoverflow
    calc f.overflowAt ≤ x
      _ ↔ up := by
        rw [hup, RoundsUp, and_iff_left hodd, ← le_iff_lt_or_eq, ← hoverflow]
        exact (mul_le_mul_iff_right₀ two_pos).symm
      _ ↔ f.infMag ≤ if up then lo + 1 else lo := by split <;> simp_all
  · have hmag : f.magnitude f.infMag ≤ f.magnitude lo := hmono.monotone h
    exact iff_of_true (by linarith) (by split <;> omega)

/-- Between two neighbouring magnitude patterns the nearer is right, on a tie the even one, and the infinity's where
that is one beyond the largest finite number. -/
theorem FpFormat.nearestEven_of_between : f.NearestEven x (min (if up then lo + 1 else lo) f.infMag) := by
  rcases le_or_gt f.overflowAt x with hover | hunder
  · exact .inl ⟨hover, min_eq_right ((overflowAt_le_iff hf hlo hhi hup).1 hover)⟩
  · have hlt := lt_of_not_ge (mt (overflowAt_le_iff hf hlo hhi hup).2 hunder.not_ge)
    rw [min_eq_left hlt.le]
    exact .inr ⟨hunder, hlt, fun p _ => nearest_of_between hf hlo hhi hup rfl⟩

end

/-! ## The rounding of the model -/

/-- The unit `roundMag` chooses by the logarithm cuts a whole number of quanta to a mantissa. -/
theorem FpFormat.isMantissa_div (f : FpFormat) (n : Nat) :
    f.IsMantissa (Nat.log2 n - f.fracBits) (n / 2 ^ (Nat.log2 n - f.fracBits)) := by
  constructor
  · refine (Nat.eq_zero_or_pos (Nat.log2 n - f.fracBits)).imp_right fun hk => ?_
    have hn : n ≠ 0 := by rintro rfl; simp at hk
    rw [Nat.le_div_iff_mul_le (by positivity), ← pow_add, Nat.add_sub_cancel' (by omega)]
    exact Nat.log2_self_le hn
  · rw [Nat.div_lt_iff_lt_mul (by positivity), ← pow_add]
    exact Nat.lt_log2_self.trans_le (Nat.pow_le_pow_right two_pos (by omega))

/-- A fraction by its quotient and remainder at a unit of 2 to the `k`. -/
theorem div_eq_quot_add_rem (num k : Nat) {den : Nat} (hden : 0 < den) :
    (num : ℚ) / den = ((num / (den * 2 ^ k) : Nat) : ℚ) * 2 ^ k + ((num % (den * 2 ^ k) : Nat) : ℚ) / den := by
  have h := congrArg (Nat.cast (R := ℚ)) (Nat.div_add_mod' num (den * 2 ^ k))
  push_cast at h
  rw [div_eq_iff (by positivity), add_mul, div_mul_cancel₀ _ (by positivity)]
  linarith

/-- Twice a remainder against its unit, as a fraction of quanta. -/
theorem two_mul_rem_unit_iff (r k : Nat) {den : Nat} (hden : 0 < den) :
    (den * 2 ^ k < 2 * r ↔ (2 : ℚ) ^ k < 2 * (r / den)) ∧ (2 * r = den * 2 ^ k ↔ (2 : ℚ) ^ k = 2 * (r / den)) := by
  rw [← mul_div_assoc, lt_div_iff₀ (by positivity), eq_div_iff (by positivity), mul_comm, eq_comm]
  exact ⟨by exact_mod_cast Iff.rfl, by exact_mod_cast Iff.rfl⟩

/-- A pattern is even where its mantissa is. -/
theorem FpFormat.mantissa_mod_two {f : FpFormat} (hf : f.Proper) (k m : Nat) :
    (k * 2 ^ f.fracBits + m) % 2 = m % 2 := by
  obtain ⟨n, hn⟩ := Nat.exists_eq_add_of_le' hf.fracBits
  rw [hn, pow_succ, ← Nat.mul_assoc]
  omega

/-- `roundMag` rounds its fraction of quanta to nearest, ties to even (R251). -/
theorem FpFormat.nearestEven_roundMag {f : FpFormat} (hf : f.Proper) (num : Nat) {den : Nat} (hden : 0 < den) :
    f.NearestEven ((num : ℚ) / den / 2 ^ f.unitLog) (f.roundMag num den) := by
  obtain ⟨k, hk⟩ : ∃ k, k = Nat.log2 (num / den) - f.fracBits := ⟨_, rfl⟩
  have hmant := f.isMantissa_div (num / den)
  rw [← hk, Nat.div_div_eq_div_mul] at hmant
  have hx := div_eq_quot_add_rem num k hden
  have hrem := Nat.mod_lt num (show 0 < den * 2 ^ k by positivity)
  simp only [roundMag, ← hk]
  generalize num / (den * 2 ^ k) = m at *
  generalize num % (den * 2 ^ k) = r at *
  obtain ⟨hbig, hlt⟩ := hmant
  have hlo := magnitude_of_mantissa hf hbig hlt.le
  have hhi : f.magnitude (k * 2 ^ f.fracBits + m + 1) = (m + 1) * 2 ^ k / 2 ^ f.unitLog := by
    rw [Nat.add_assoc, magnitude_of_mantissa hf (hbig.imp_right (by omega)) hlt, Nat.cast_add_one]
  have hremLt : (r : ℚ) / den < 2 ^ k := by
    rw [div_lt_iff₀ (by positivity), mul_comm]
    exact_mod_cast hrem
  obtain ⟨hhalf, htie⟩ := two_mul_rem_unit_iff r k hden
  have hremNonneg : 0 ≤ (r : ℚ) / den := by positivity
  rw [apply_ite (k * 2 ^ f.fracBits + ·), hx]
  generalize (r : ℚ) / den = δ at *
  refine nearestEven_of_between (lo := k * 2 ^ f.fracBits + m) hf ?lo ?hi ?up
  case lo =>
    rw [hlo]
    gcongr
    exact le_add_of_nonneg_right hremNonneg
  case hi =>
    rw [hhi]
    gcongr
    linarith
  case up =>
    rw [RoundsUp, hlo, hhi, mantissa_mod_two hf, hhalf, htie, ← add_div, ← mul_div_assoc,
      div_lt_div_iff_of_pos_right (by positivity), div_left_inj' (by positivity)]
    refine or_congr ?_ (and_congr_left' ?_) <;> constructor <;> intro h <;> linarith

end Sys2Proof.Machine

namespace Sys2Proof.Machine

/-! # Arithmetic rounds the exact result (R251) -/

/-- The rational number of a sign and a number of quanta. -/
def FpFormat.signed (f : FpFormat) (neg : Bool) (quanta : Nat) : ℚ := if neg then -f.rat quanta else f.rat quanta

theorem FpFormat.signed_not (f : FpFormat) (neg : Bool) (q : Nat) : f.signed (!neg) q = -f.signed neg q := by
  cases neg <;> simp [signed]

@[simp] theorem FpFormat.rat_zero (f : FpFormat) : f.rat 0 = 0 := by simp [rat]

theorem FpFormat.rat_add (f : FpFormat) (p q : Nat) : f.rat (p + q) = f.rat p + f.rat q := by
  rw [rat, Nat.cast_add, add_div]
  rfl

theorem FpFormat.rat_nonneg (f : FpFormat) (q : Nat) : 0 ≤ f.rat q := by
  unfold rat
  positivity

theorem FpFormat.rat_pos (f : FpFormat) {q : Nat} (h : q ≠ 0) : 0 < f.rat q :=
  f.rat_zero ▸ f.rat_strictMono (Nat.pos_of_ne_zero h)

theorem FpFormat.abs_signed (f : FpFormat) (neg : Bool) (q : Nat) : |f.signed neg q| = f.rat q := by
  cases neg <;> simp [signed, f.rat_nonneg]

theorem FpFormat.signed_add (f : FpFormat) (neg : Bool) (p q : Nat) :
    f.signed neg p + f.signed neg q = f.signed neg (p + q) := by
  cases neg <;> simp [signed, rat_add, add_comm]

theorem FpFormat.signed_add_not (f : FpFormat) (neg : Bool) {p q : Nat} (h : q ≤ p) :
    f.signed neg p + f.signed (!neg) q = f.signed neg (p - q) := by
  obtain ⟨d, rfl⟩ := Nat.exists_eq_add_of_le' h
  rw [signed_not, Nat.add_sub_cancel, ← signed_add, add_neg_cancel_right]

/-- The finite patterns are those whose value is a number of quanta, with the pattern's sign (R240, R241). -/
theorem FpFormat.exists_value_of_finite {f : FpFormat} (hf : f.Proper) {bits : Nat} {x : ℚ}
    (h : f.finite bits = some x) : ∃ q, f.value bits = .fin (f.signOf bits) q ∧ x = f.signed (f.signOf bits) q := by
  rw [finite, magnitude_eq_rat hf] at h
  split at h
  · next hlt => exact ⟨_, (f.value_eq bits).trans (if_pos hlt), (Option.some.inj h).symm⟩
  · nomatch h

/-! ## The sign of a sum -/

/-- A sum that is not zero has the sign of the exact result. -/
theorem FpFormat.fpResultSign_add_of_ne_zero (f : FpFormat) (a b neg : Bool) {q : Nat} (h : q ≠ 0) :
    fpResultSign .add a b (f.signed neg q) = neg := by
  have := f.rat_pos h
  cases neg
  · simp [fpResultSign, signed, this.ne', this.le]
  · simp [fpResultSign, signed, this.ne', this]

/-- A sum of two numbers of one sign has that sign, also where both are zeros. -/
theorem FpFormat.fpResultSign_add_self (f : FpFormat) (neg : Bool) (q : Nat) :
    fpResultSign .add neg neg (f.signed neg q) = neg := by
  rcases eq_or_ne q 0 with rfl | h
  · cases neg <;> simp [fpResultSign, signed]
  · exact f.fpResultSign_add_of_ne_zero neg neg neg h

/-! ## The operations on finite values -/

theorem FpFormat.arith_add (f : FpFormat) (a b : Nat) : f.arith .add a b = f.add (f.value a) (f.value b) := rfl

theorem FpFormat.arith_sub (f : FpFormat) (a b : Nat) : f.arith .sub a b = f.add (f.value a) (f.value b).neg := rfl

theorem FpFormat.arith_mul (f : FpFormat) (a b : Nat) : f.arith .mul a b = f.mul (f.value a) (f.value b) := rfl

theorem FpFormat.arith_div (f : FpFormat) (a b : Nat) : f.arith .div a b = f.div (f.value a) (f.value b) := rfl

/-- `run` is the exact result `x` rounded to nearest, ties to even, with the sign `neg`. -/
def FpFormat.Rounds (f : FpFormat) (x : ℚ) (neg : Bool) (run : Option Nat) : Prop :=
  ∃ mag, f.NearestEven |x| mag ∧ run = some (f.withSign neg mag)

section

variable {f : FpFormat} (hf : f.Proper)
include hf

/-- `round` rounds its fraction of quanta, with its sign. -/
theorem FpFormat.rounds_round {x : ℚ} (neg : Bool) {num den : Nat} (hden : 0 < den)
    (hx : |x| = (num : ℚ) / den / 2 ^ f.unitLog) : f.Rounds x neg (f.round neg num den) :=
  ⟨f.roundMag num den, hx ▸ nearestEven_roundMag hf num hden, rfl⟩

/-- A whole number of quanta is rounded as the fraction over 1. -/
theorem FpFormat.rounds_round_one (neg : Bool) (q : Nat) : f.Rounds (f.signed neg q) neg (f.round neg q 1) :=
  rounds_round hf neg one_pos (by rw [abs_signed, Nat.cast_one, div_one, rat])

/-- An exact zero is the pattern 0. -/
theorem FpFormat.rounds_zero : f.Rounds 0 false (some 0) :=
  ⟨f.roundMag 0 1, by simpa using nearestEven_roundMag hf 0 one_pos, by simp [roundMag, withSign]⟩

theorem FpFormat.add_rounds (a b : Bool) (p q : Nat) :
    f.Rounds (f.signed a p + f.signed b q) (fpResultSign .add a b (f.signed a p + f.signed b q))
      (f.add (.fin a p) (.fin b q)) := by
  simp only [add]
  split
  case isTrue hab =>
    subst hab
    rw [signed_add, fpResultSign_add_self]
    exact rounds_round_one hf a (p + q)
  case isFalse hab =>
    obtain rfl : b = !a := Bool.eq_not.2 (Ne.symm hab)
    split_ifs with heq hlt
    · subst heq
      rw [signed_add_not f a le_rfl, Nat.sub_self]
      simpa [signed, fpResultSign] using rounds_zero hf
    · rw [signed_add_not f a hlt.le, fpResultSign_add_of_ne_zero f _ _ _ (by omega)]
      exact rounds_round_one hf a (p - q)
    · have hsum : f.signed a p + f.signed (!a) q = f.signed (!a) (q - p) := by
        rw [add_comm, ← signed_add_not f (!a) (by omega), Bool.not_not]
      rw [hsum, fpResultSign_add_of_ne_zero f _ _ _ (by omega)]
      exact rounds_round_one hf (!a) (q - p)

theorem FpFormat.mul_rounds (a b : Bool) (p q : Nat) :
    f.Rounds (f.signed a p * f.signed b q) (a != b) (f.mul (.fin a p) (.fin b q)) := by
  refine rounds_round hf _ (by positivity) ?_
  rw [abs_mul, abs_signed, abs_signed, rat, rat]
  push_cast
  field_simp

theorem FpFormat.div_rounds (a b : Bool) (p : Nat) {q : Nat} (hq : q ≠ 0) :
    f.Rounds (f.signed a p / f.signed b q) (a != b) (f.div (.fin a p) (.fin b q)) := by
  rw [div, if_neg hq]
  refine rounds_round hf _ (by positivity) ?_
  rw [abs_div, abs_signed, abs_signed, rat, rat]
  push_cast
  field_simp

end

/-- Settles O39: each operation rounds its exact fraction of quanta once, by `roundMag`. -/
theorem arithmeticRoundsTheExactResult : Obligations.ArithmeticRoundsTheExactResult := by
  intro f hmem op a b x y hx hy hdiv
  have hf := FpFormat.proper_of_mem hmem
  obtain ⟨p, ha, rfl⟩ := FpFormat.exists_value_of_finite hf hx
  obtain ⟨q, hb, rfl⟩ := FpFormat.exists_value_of_finite hf hy
  cases op with
  | add =>
    rw [FpFormat.arith_add, ha, hb]
    exact FpFormat.add_rounds hf ..
  | sub =>
    rw [FpFormat.arith_sub, ha, hb]
    have h := FpFormat.add_rounds hf (f.signOf a) (!f.signOf b) p q
    rw [FpFormat.signed_not, ← sub_eq_add_neg] at h
    exact h
  | mul =>
    rw [FpFormat.arith_mul, ha, hb]
    exact FpFormat.mul_rounds hf ..
  | div =>
    rw [FpFormat.arith_div, ha, hb]
    have hq : q ≠ 0 := by
      rintro rfl
      exact hdiv rfl (by simp [FpFormat.signed])
    exact FpFormat.div_rounds hf _ _ _ hq

end Sys2Proof.Machine

namespace Sys2Proof.Machine

/-! # The value of a pattern, field by field (R240, R241) -/

theorem FpFormat.signOf_eq_testBit (f : FpFormat) (bits : Nat) :
    f.signOf bits = bits.testBit (f.expBits + f.fracBits) := by
  rw [Nat.testBit_eq_decide_div_mod_eq]
  rfl

/-- The sign of a word as wide as the format is its top bit. -/
theorem FpFormat.signOf_toNat {f : FpFormat} {n : Nat} (hn : n = f.expBits + f.fracBits + 1) (w : BitVec n) :
    f.signOf w.toNat = w.msb := by
  subst hn
  rw [signOf_eq_testBit, BitVec.testBit_toNat, BitVec.msb_eq_getLsbD_last, Nat.add_sub_cancel]

/-- R240 and R241 on the fields of a word as wide as the format. -/
theorem FpFormat.value_fields {f : FpFormat} (hf : f.Proper) {n : Nat} (hn : n = f.expBits + f.fracBits + 1)
    (w : BitVec n) :
    let e := (w.extractLsb' f.fracBits f.expBits).toNat
    let m := (w.extractLsb' 0 f.fracBits).toNat
    (e = f.maxExp ∧ m ≠ 0 → f.value w.toNat = .nan) ∧
    (e = f.maxExp ∧ m = 0 → f.value w.toNat = .inf w.msb) ∧
    (1 ≤ e ∧ e ≤ f.maxExp - 1 → ∃ q, f.value w.toNat = .fin w.msb q ∧
      f.rat q = (1 + (m : ℚ) / 2 ^ f.fracBits) * (2 : ℚ) ^ ((e : Int) - f.bias)) ∧
    (e = 0 → ∃ q, f.value w.toNat = .fin w.msb q ∧
      f.rat q = (m : ℚ) / 2 ^ f.fracBits * (2 : ℚ) ^ ((1 : Int) - f.bias)) := by
  intro e m
  have he : f.magOf w.toNat / 2 ^ f.fracBits = e := by
    rw [magOf_div, ← Nat.shiftRight_eq_div_pow, ← BitVec.extractLsb'_toNat]
  have hm : f.magOf w.toNat % 2 ^ f.fracBits = m := by
    rw [magOf_mod, ← Nat.shiftRight_zero (n := w.toNat), ← BitVec.extractLsb'_toNat]
  have hmax := two_le_maxExp hf
  have hfin (h : e < f.maxExp) :
      ∃ q, f.value w.toNat = .fin w.msb q ∧ f.rat q = f.magnitude (f.magOf w.toNat) := by
    rw [← he, ← lt_infMag_iff] at h
    exact ⟨_, by rw [value_eq, if_pos h, signOf_toNat hn], (magnitude_eq_rat hf _).symm⟩
  have hfracZero (h : e = f.maxExp) : f.magOf w.toNat = f.infMag ↔ m = 0 :=
    hm ▸ f.eq_infMag_iff (he.trans h)
  have hnot (h : e = f.maxExp) : ¬ f.magOf w.toNat < f.infMag := by
    rw [lt_infMag_iff, he]
    omega
  refine ⟨fun ⟨hexp, hfrac⟩ => ?nan, fun ⟨hexp, hfrac⟩ => ?inf, fun ⟨hpos, hlt⟩ => ?normal, fun hzero => ?denormal⟩
  case nan => rw [value_eq, if_neg (hnot hexp), if_neg (mt (hfracZero hexp).1 hfrac)]
  case inf => rw [value_eq, if_neg (hnot hexp), if_pos ((hfracZero hexp).2 hfrac), signOf_toNat hn]
  case normal =>
    obtain ⟨q, hq, hrat⟩ := hfin (by omega)
    refine ⟨q, hq, hrat.trans ?_⟩
    simp only [magnitude, he, hm]
    exact if_neg (by omega)
  case denormal =>
    obtain ⟨q, hq, hrat⟩ := hfin (by omega)
    refine ⟨q, hq, hrat.trans ?_⟩
    simp only [magnitude, he, hm]
    exact if_pos hzero

/-- Settles O38: the fields of a word are those of its magnitude pattern. -/
theorem patternsDenoteTheirValues : Obligations.PatternsDenoteTheirValues :=
  ⟨FpFormat.value_fields FpFormat.single_proper rfl, FpFormat.value_fields FpFormat.double_proper rfl⟩

/-! # Compares (R256) -/

/-- The extended rational number of a value; none for a NaN (R240, R241). -/
def FpFormat.extendedOf (f : FpFormat) : FpVal → Option (WithBot (WithTop ℚ))
  | .nan => none
  | .inf neg => some (if neg then ⊥ else ((⊤ : WithTop ℚ) : WithBot (WithTop ℚ)))
  | .fin neg q => some ((f.signed neg q : WithTop ℚ) : WithBot (WithTop ℚ))

theorem FpFormat.extended_eq {f : FpFormat} (hf : f.Proper) (bits : Nat) :
    f.extended bits = f.extendedOf (f.value bits) := by
  rw [extended, magnitude_eq_rat hf, value_eq]
  split_ifs <;> simp_all [extendedOf, signed]

theorem FpFormat.signed_eq_signedQuanta (f : FpFormat) (neg : Bool) (q : Nat) :
    f.signed neg q = (signedQuanta neg q : ℚ) / 2 ^ f.unitLog := by
  cases neg <;> simp [signed, signedQuanta, rat, neg_div]

theorem FpFormat.signed_lt_iff (f : FpFormat) (a b : Bool) (p q : Nat) :
    f.signed a p < f.signed b q ↔ signedQuanta a p < signedQuanta b q := by
  rw [signed_eq_signedQuanta, signed_eq_signedQuanta, div_lt_div_iff_of_pos_right (by positivity), Int.cast_lt]

theorem FpFormat.signed_eq_iff (f : FpFormat) (a b : Bool) (p q : Nat) :
    f.signed a p = f.signed b q ↔ signedQuanta a p = signedQuanta b q := by
  rw [signed_eq_signedQuanta, signed_eq_signedQuanta, div_left_inj' (by positivity), Int.cast_inj]

/-- A compare finds which of the three ways the extended rational numbers of its operands are ordered. -/
theorem FpFormat.fpCompare_cases (f : FpFormat) {v w : FpVal} {x y : WithBot (WithTop ℚ)}
    (hx : f.extendedOf v = some x) (hy : f.extendedOf w = some y) :
    (x = y ∧ fpCompare v w = .equal) ∨ (x < y ∧ fpCompare v w = .less) ∨ (y < x ∧ fpCompare v w = .greater) := by
  cases v with
  | nan => nomatch hx
  | inf a =>
    cases w with
    | nan => nomatch hy
    | inf b => cases hx; cases hy; cases a <;> cases b <;> simp [fpCompare]
    | fin b q =>
      cases hx
      cases hy
      cases a
      · exact .inr (.inr ⟨WithBot.coe_lt_coe.2 (WithTop.coe_lt_top _), rfl⟩)
      · exact .inr (.inl ⟨WithBot.bot_lt_coe _, rfl⟩)
  | fin a p =>
    cases w with
    | nan => nomatch hy
    | inf b =>
      cases hx
      cases hy
      cases b
      · exact .inr (.inl ⟨WithBot.coe_lt_coe.2 (WithTop.coe_lt_top _), rfl⟩)
      · exact .inr (.inr ⟨WithBot.bot_lt_coe _, rfl⟩)
    | fin b q =>
      cases hx
      cases hy
      simp only [WithBot.coe_inj, WithTop.coe_inj, WithBot.coe_lt_coe, WithTop.coe_lt_coe, f.signed_eq_iff,
        f.signed_lt_iff, fpCompare]
      rcases lt_trichotomy (signedQuanta a p) (signedQuanta b q) with h | h | h
      · simp [h, h.ne]
      · simp [h]
      · simp [h, h.ne', h.not_gt]

/-- A compare is unordered exactly where a NaN is one of its operands. -/
theorem FpFormat.fpCompare_unordered_iff (f : FpFormat) (v w : FpVal) :
    fpCompare v w = .unordered ↔ f.extendedOf v = none ∨ f.extendedOf w = none := by
  cases hx : f.extendedOf v with
  | none => cases v <;> simp_all [extendedOf, fpCompare]
  | some x =>
    cases hy : f.extendedOf w with
    | none => cases w <;> cases v <;> simp_all [extendedOf, fpCompare]
    | some y =>
      rcases f.fpCompare_cases hx hy with ⟨-, h⟩ | ⟨-, h⟩ | ⟨-, h⟩ <;> simp [h]

/-- Settles O42: of two extended rational numbers one of the three orders holds, and no other. -/
theorem compareOrdersTheValues : Obligations.CompareOrdersTheValues := by
  refine ⟨fun f hmem a b => ⟨fun x y hx hy => ?order, ?unordered⟩, fun rel g hg => ?conditions⟩
  case order =>
    rw [FpFormat.extended_eq (FpFormat.proper_of_mem hmem)] at hx hy
    rcases f.fpCompare_cases hx hy with ⟨h, hrel⟩ | ⟨h, hrel⟩ | ⟨h, hrel⟩
    · simp [hrel, h]
    · simp [hrel, h, h.ne, h.not_gt]
    · simp [hrel, h, h.ne', h.not_gt]
  case unordered =>
    rw [FpFormat.extended_eq (FpFormat.proper_of_mem hmem), FpFormat.extended_eq (FpFormat.proper_of_mem hmem)]
    exact f.fpCompare_unordered_iff ..
  case conditions =>
    cases rel with
    | equal | less | greater => cases hg; decide
    | unordered => nomatch hg

/-! # The special operands (R251) -/

theorem FpFormat.add_nan_right (f : FpFormat) (v : FpVal) : f.add v .nan = none := by cases v <;> rfl

theorem FpFormat.mul_nan_right (f : FpFormat) (v : FpVal) : f.mul v .nan = none := by cases v <;> rfl

theorem FpFormat.div_nan_right (f : FpFormat) (v : FpVal) : f.div v .nan = none := by cases v <;> rfl

/-- An operation on a NaN gives a NaN. -/
theorem FpFormat.arith_eq_none_of_nan {f : FpFormat} {a b : Nat} (h : f.value a = .nan ∨ f.value b = .nan) (op : FpOp) :
    f.arith op a b = none := by
  rcases h with h | h
  · cases op <;> simp [arith, h, add, mul, div]
  · cases op <;> simp [arith, h, FpVal.neg, add_nan_right, mul_nan_right, div_nan_right]

/-- Settles O40: each row is one case of its operation's definition. -/
theorem specialOperands : Obligations.SpecialOperands := by
  intro f _ a b s t q
  refine ⟨FpFormat.arith_eq_none_of_nan, fun ha hb => ?sameInf, fun ha hb => ?oppositeInf, fun ha hb => ?infInf,
    fun ha hb => ?infFin, fun ha hb => ?finInf, fun ha hb => ?zeroDivisor⟩ <;>
    simp only [FpFormat.arith_add, FpFormat.arith_sub, FpFormat.arith_mul, FpFormat.arith_div, ha, hb, FpVal.neg]
  case sameInf | oppositeInf => simp [FpFormat.add]
  case infInf => simp [FpFormat.mul, FpFormat.div]
  case infFin | finInf => simp +contextual [FpFormat.add, FpFormat.mul, FpFormat.div]
  case zeroDivisor => simp +contextual [FpFormat.div]

/-! # Laws of the default numerics (R262) -/

theorem FpFormat.add_comm (f : FpFormat) (v w : FpVal) : f.add v w = f.add w v := by
  cases v with
  | nan => exact (f.add_nan_right w).symm
  | inf a =>
    cases w with
    | nan => rfl
    | inf b => cases a <;> cases b <;> rfl
    | fin b q => rfl
  | fin a p =>
    cases w with
    | nan => rfl
    | inf b => rfl
    | fin b q =>
      rcases eq_or_ne a b with rfl | hab
      · simp [add, Nat.add_comm]
      · rcases lt_trichotomy p q with h | rfl | h
        · simp [add, hab, hab.symm, h, h.ne, h.ne', h.not_gt]
        · simp [add, hab, hab.symm]
        · simp [add, hab, hab.symm, h, h.ne, h.ne', h.not_gt]

theorem FpFormat.mul_comm (f : FpFormat) (v w : FpVal) : f.mul v w = f.mul w v := by
  cases v with
  | nan => exact (f.mul_nan_right w).symm
  | inf a => cases w <;> simp only [mul, bne_comm (a := a)]
  | fin a p => cases w <;> simp only [mul, bne_comm (a := a), Nat.mul_comm]

/-- Flipping the sign of a pattern flips that of its value. -/
theorem FpFormat.value_neg {f : FpFormat} {a b : Nat} (hsign : f.signOf b = !f.signOf a)
    (hmag : f.magOf b = f.magOf a) : f.value b = (f.value a).neg := by
  rw [value_eq, value_eq, hsign, hmag]
  split_ifs <;> rfl

/-- The operand of a subtraction with its top bit flipped has the other sign and the same magnitude. -/
theorem FpFormat.value_xor_signBit (f : FpFormat) (b : Nat) :
    f.value (b ^^^ 2 ^ (f.expBits + f.fracBits)) = (f.value b).neg := by
  refine value_neg ?_ ?_
  · simp [signOf_eq_testBit]
  · simp [magOf, Nat.xor_mod_two_pow]

/-- Settles O45: subtraction is addition of the other sign's value, and at 2^24 quanta an addend of one quantum is lost
where two are not. -/
theorem floatingPointAlgebra : Obligations.FloatingPointAlgebra := by
  refine ⟨fun f a b => ⟨f.add_comm .., f.mul_comm ..⟩, fun a b => ?single, fun a b => ?double,
    0x01000000, 1, 1, 0x01000000, 2, ?_, ?_, ?_⟩
  case single =>
    rw [FpFormat.arith_sub, FpFormat.arith_add, ← FpFormat.value_xor_signBit, BitVec.toNat_xor]
    rfl
  case double =>
    rw [FpFormat.arith_sub, FpFormat.arith_add, ← FpFormat.value_xor_signBit, BitVec.toNat_xor]
    rfl
  all_goals decide

end Sys2Proof.Machine

namespace Sys2Proof

/-! # Decoding a word whose shamt must match (R97, R250) -/

/-- The row of R97 that takes every word of the R format with opcode `op` and shamt `sh`. -/
def OpcodeRow.ofRShamt (op : BitVec 11) (sh : BitVec 6) (f : Reg → Reg → Reg → Instr) : OpcodeRow :=
  ⟨0xFFE0FC00, (op.setWidth 32 <<< 21) ||| (sh.setWidth 32 <<< 10), fun w => f (fieldRd w) (fieldRn w) (fieldRm w)⟩

/-- Decoding a word of the R format with its shamt, by the number `k` of its row. -/
theorem decode_encodeR_shamt (op : BitVec 11) (sh : BitVec 6) (f : Reg → Reg → Reg → Instr) (k : Nat)
    (h : opcodeTable[k]? = some (.ofRShamt op sh f)) {rd rn rm : Reg} :
    decode (encodeR op rm sh rn rd) = .ok (f rd rn rm) := by
  rw [decode_of_row (List.mem_of_getElem? h) (encodeR_and_op_shamt ..)]
  simp [OpcodeRow.ofRShamt]

end Sys2Proof

namespace Sys2Proof.Machine

/-! # Floating-point instructions (R242 to R256) -/

/-! ## The results of the numerics are patterns of the format -/

theorem FpFormat.infMag_lt (f : FpFormat) : f.infMag < 2 ^ (f.expBits + f.fracBits) := by
  rw [infMag, maxExp, pow_add]
  exact Nat.mul_lt_mul_of_pos_right (Nat.sub_one_lt (by positivity)) (by positivity)

/-- A result no wider than the format, where there is one. -/
def FpFormat.Fits (f : FpFormat) (run : Option Nat) : Prop := ∀ bits ∈ run, bits < 2 ^ (f.expBits + f.fracBits + 1)

theorem FpFormat.fits_none (f : FpFormat) : f.Fits none := by simp [Fits]

theorem FpFormat.fits_withSign (f : FpFormat) (neg : Bool) {mag : Nat} (h : mag ≤ f.infMag) :
    f.Fits (some (f.withSign neg mag)) := by
  intro bits hbits
  obtain rfl := Option.some.inj hbits
  have := f.infMag_lt
  rw [withSign, pow_succ]
  split <;> omega

theorem FpFormat.fits_infBits (f : FpFormat) (neg : Bool) : f.Fits (some (f.infBits neg)) := f.fits_withSign neg le_rfl

theorem FpFormat.fits_round (f : FpFormat) (neg : Bool) (num den : Nat) : f.Fits (f.round neg num den) :=
  f.fits_withSign neg (Nat.min_le_right ..)

theorem FpFormat.fits_add (f : FpFormat) (v w : FpVal) : f.Fits (f.add v w) := by
  unfold add
  split
  · exact f.fits_none
  · exact f.fits_none
  · split
    · exact f.fits_infBits _
    · exact f.fits_none
  · exact f.fits_infBits _
  · exact f.fits_infBits _
  · split_ifs
    · exact f.fits_round _ _ _
    · exact f.fits_withSign false (Nat.zero_le _)
    · exact f.fits_round _ _ _
    · exact f.fits_round _ _ _

theorem FpFormat.fits_mul (f : FpFormat) (v w : FpVal) : f.Fits (f.mul v w) := by
  unfold mul
  split
  · exact f.fits_none
  · exact f.fits_none
  · exact f.fits_infBits _
  · split
    · exact f.fits_none
    · exact f.fits_infBits _
  · split
    · exact f.fits_none
    · exact f.fits_infBits _
  · exact f.fits_round _ _ _

theorem FpFormat.fits_div (f : FpFormat) (v w : FpVal) : f.Fits (f.div v w) := by
  unfold div
  split
  · exact f.fits_none
  · exact f.fits_none
  · exact f.fits_none
  · exact f.fits_infBits _
  · exact f.fits_withSign _ (Nat.zero_le _)
  · split_ifs
    · exact f.fits_none
    · exact f.fits_infBits _
    · exact f.fits_round _ _ _

theorem FpFormat.fits_arith (f : FpFormat) (op : FpOp) (a b : Nat) : f.Fits (f.arith op a b) := by
  cases op with
  | add | sub => exact f.fits_add _ _
  | mul => exact f.fits_mul _ _
  | div => exact f.fits_div _ _

/-! ## The NaN results -/

/-- Whatever the pattern, `nanOf32` makes it a NaN of the format (R241). -/
theorem isNan32_nanOf32 (w : Word32) : IsNan32 (nanOf32 w) := by
  unfold IsNan32 nanOf32
  split
  case isTrue hfrac =>
    rw [BitVec.extractLsb'_or, BitVec.extractLsb'_or, hfrac,
      show (0x7FC00000 : Word32).extractLsb' 23 8 = BitVec.allOnes 8 by decide, BitVec.or_allOnes]
    exact ⟨rfl, by decide⟩
  case isFalse hfrac =>
    rw [BitVec.extractLsb'_or, BitVec.extractLsb'_or,
      show (0x7F800000 : Word32).extractLsb' 23 8 = BitVec.allOnes 8 by decide, BitVec.or_allOnes,
      show (0x7F800000 : Word32).extractLsb' 0 23 = 0#23 by decide, BitVec.or_zero]
    exact ⟨rfl, hfrac⟩

/-- Whatever the pattern, `nanOf64` makes it a NaN of the format (R241). -/
theorem isNan64_nanOf64 (w : Word) : IsNan64 (nanOf64 w) := by
  unfold IsNan64 nanOf64
  split
  case isTrue hfrac =>
    rw [BitVec.extractLsb'_or, BitVec.extractLsb'_or, hfrac,
      show (0x7FF8000000000000 : Word).extractLsb' 52 11 = BitVec.allOnes 11 by decide, BitVec.or_allOnes]
    exact ⟨rfl, by decide⟩
  case isFalse hfrac =>
    rw [BitVec.extractLsb'_or, BitVec.extractLsb'_or,
      show (0x7FF0000000000000 : Word).extractLsb' 52 11 = BitVec.allOnes 11 by decide, BitVec.or_allOnes,
      show (0x7FF0000000000000 : Word).extractLsb' 0 52 = 0#52 by decide, BitVec.or_zero]
    exact ⟨rfl, hfrac⟩

theorem isNan32_armDefault : IsNan32 0x7FC00000 := by
  unfold IsNan32
  decide

theorem isNan64_armDefault : IsNan64 0x7FF8000000000000 := by
  unfold IsNan64
  decide

/-- A NaN result is a NaN of the policy (R251, log entry 13). -/
theorem nanResult32_spec (policy : NanPolicy) (s : State) :
    IsNan32 (nanResult32 policy s).1 ∧ (policy = .armDefault → (nanResult32 policy s).1 = 0x7FC00000) := by
  cases policy with
  | draw => exact ⟨isNan32_nanOf32 _, nofun⟩
  | armDefault => exact ⟨isNan32_armDefault, fun _ => rfl⟩

theorem nanResult64_spec (policy : NanPolicy) (s : State) :
    IsNan64 (nanResult64 policy s).1 ∧ (policy = .armDefault → (nanResult64 policy s).1 = 0x7FF8000000000000) := by
  cases policy with
  | draw => exact ⟨isNan64_nanOf64 _, nofun⟩
  | armDefault => exact ⟨isNan64_armDefault, fun _ => rfl⟩

/-- A single-precision result is one FP_NUMERICS allows (R251). -/
theorem fpArith32_result (op : FpOp) (a b : Word32) (s : State) :
    FpResult32 s.params op a b (fpArith32 op a b s).1 := by
  unfold FpResult32 fpArith32
  cases s.params.fpNumerics with
  | other k => rfl
  | ieee policy =>
    have hfits := FpFormat.single.fits_arith op a.toNat b.toNat
    cases harith : FpFormat.single.arith op a.toNat b.toNat with
    | some bits => exact BitVec.toNat_ofNat .. ▸ Nat.mod_eq_of_lt (hfits bits harith)
    | none => exact nanResult32_spec policy s

/-- A double-precision result is one FP_NUMERICS allows (R251). -/
theorem fpArith64_result (op : FpOp) (a b : Word) (s : State) :
    FpResult64 s.params op a b (fpArith64 op a b s).1 := by
  unfold FpResult64 fpArith64
  cases s.params.fpNumerics with
  | other k => rfl
  | ieee policy =>
    have hfits := FpFormat.double.fits_arith op a.toNat b.toNat
    cases harith : FpFormat.double.arith op a.toNat b.toNat with
    | some bits => exact BitVec.toNat_ofNat .. ▸ Nat.mod_eq_of_lt (hfits bits harith)
    | none => exact nanResult64_spec policy s

/-! ## The frame of a write to the floating-point file -/

/-- Writing a double register and moving on keeps everything else. -/
theorem State.writeD_nextPc_onlyD (s : State) (rd : Reg) {v : Word} {holds : Word → Prop} (h : holds v) :
    OnlyD s (s.writeD rd v).nextPc rd holds where
  result := by rwa [readD_nextPc, readD_writeD, if_pos rfl]
  d i hi := (s.readD_writeD rd i v).trans (if_neg hi)
  pc := rfl
  x _ := rfl
  flags := rfl
  mem _ := rfl
  monitor := rfl
  system := ⟨rfl, rfl, rfl⟩

/-- Taking a free value first does not widen what an instruction changes: the count of free values is in no frame. -/
theorem OnlyD.of_eq_or_draw {s s' t : State} {rd : Reg} {holds : Word → Prop} (hs : s' = s ∨ s' = s.draw.2)
    (h : OnlyD s' t rd holds) : OnlyD s t rd holds := by
  obtain ⟨hresult, hd, hpc, hx, hflags, hmem, hmonitor, hesr, hrec, hparams⟩ := h
  rcases hs with rfl | rfl <;> exact ⟨hresult, hd, hpc, hx, hflags, hmem, hmonitor, hesr, hrec, hparams⟩

/-- Writing a single register and moving on keeps everything else but the register's high half (R33). -/
theorem State.writeS_nextPc_onlyD (s : State) (rd : Reg) {v : Word32} {holds : Word32 → Prop} (h : holds v) :
    OnlyD s (s.writeS rd v).nextPc rd fun w => holds (w.setWidth 32) :=
  (s.draw.2.writeD_nextPc_onlyD rd (by rwa [joinHalves_low])).of_eq_or_draw (.inr rfl)

theorem State.withFp_of_enabled {s : State} (h : s.params.fpEnabled = true) (run : Result) : s.withFp run = run :=
  if_pos h

/-! ## Arithmetic (R242 to R249) -/

/-- What a single-precision operation does. -/
theorem fpSingle_effect (op : FpOp) (rd rn rm : Reg) {s : State} (hfp : s.params.fpEnabled = true) :
    ∃ t, fpSingle op rd rn rm s = .next t ∧
      OnlyD s t rd fun w => FpResult32 s.params op (s.readS rn) (s.readS rm) (w.setWidth 32) :=
  ⟨_, State.withFp_of_enabled hfp _,
    (State.writeS_nextPc_onlyD _ rd (fpArith32_result ..)).of_eq_or_draw (fpArith32_state ..)⟩

/-- What a double-precision operation does. -/
theorem fpDouble_effect (op : FpOp) (rd rn rm : Reg) {s : State} (hfp : s.params.fpEnabled = true) :
    ∃ t, fpDouble op rd rn rm s = .next t ∧
      OnlyD s t rd fun w => FpResult64 s.params op (s.readD rn) (s.readD rm) w :=
  ⟨_, State.withFp_of_enabled hfp _,
    (State.writeD_nextPc_onlyD _ rd (fpArith64_result ..)).of_eq_or_draw (fpArith64_state ..)⟩

/-- Settles O36: each is `fpSingle` of its operation. -/
theorem singleArithmetic : Obligations.SingleArithmetic := fun _ rd rn rm =>
  ⟨fpSingle_effect .add rd rn rm, fpSingle_effect .sub rd rn rm, fpSingle_effect .mul rd rn rm,
    fpSingle_effect .div rd rn rm,
    decode_encodeR_shamt 0b00011110001 0b001010 .fadds 4 rfl, decode_encodeR_shamt 0b00011110001 0b001110 .fsubs 5 rfl,
    decode_encodeR_shamt 0b00011110001 0b000010 .fmuls 1 rfl, decode_encodeR_shamt 0b00011110001 0b000110 .fdivs 2 rfl⟩

/-- Settles O37: each is `fpDouble` of its operation. -/
theorem doubleArithmetic : Obligations.DoubleArithmetic := fun _ rd rn rm =>
  ⟨fpDouble_effect .add rd rn rm, fpDouble_effect .sub rd rn rm, fpDouble_effect .mul rd rn rm,
    fpDouble_effect .div rd rn rm,
    decode_encodeR_shamt 0b00011110011 0b001010 .faddd 9 rfl, decode_encodeR_shamt 0b00011110011 0b001110 .fsubd 10 rfl,
    decode_encodeR_shamt 0b00011110011 0b000010 .fmuld 6 rfl, decode_encodeR_shamt 0b00011110011 0b000110 .fdivd 7 rfl⟩

/-! ## Compares (R254, R255) -/

/-- Writing the flags and moving on keeps everything else; a free value may have been taken before. -/
theorem State.setFlags_nextPc_onlyFlags {s s' : State} (hs : s' = s ∨ s' = s.draw.2) {g : Flags} {holds : Flags → Prop}
    (h : holds g) : OnlyFlags s (s'.setFlags g).nextPc holds := by
  rcases hs with rfl | rfl <;> exact ⟨h, rfl, fun _ => rfl, fun _ => rfl, fun _ => rfl, rfl, rfl, rfl, rfl⟩

/-- The flags a compare writes: note (10)'s pattern of the relation, or what FCMP_UNORDERED_FLAGS fixes (R256). -/
theorem fcmpFlags_fst (rel : FpRel) (s : State) :
    let g := (fcmpFlags rel s).1
    (rel = .equal → g = ⟨false, true, true, false⟩) ∧ (rel = .less → g = ⟨true, false, false, false⟩) ∧
      (rel = .greater → g = ⟨false, false, true, false⟩) ∧
      (rel = .unordered → ∀ u, s.params.fcmpUnordered = .fixed u → g = u) := by
  refine ⟨fun h => h ▸ rfl, fun h => h ▸ rfl, fun h => h ▸ rfl, ?unordered⟩
  rintro rfl u hu
  simp [fcmpFlags, FpRel.flags, hu, State.resolve]

/-- Settles O41: each row leaves Rd free, and each meaning writes the flags of its relation. -/
theorem compareInstructions : Obligations.CompareInstructions := fun _ _ _ _ hfp =>
  ⟨⟨decode_encodeR_shamt 0b00011110001 0b001000 (fun _ => .fcmps) 3 rfl, _, State.withFp_of_enabled hfp _,
      State.setFlags_nextPc_onlyFlags (fcmpFlags_state ..) (fcmpFlags_fst ..)⟩,
    ⟨decode_encodeR_shamt 0b00011110011 0b001000 (fun _ => .fcmpd) 8 rfl, _, State.withFp_of_enabled hfp _,
      State.setFlags_nextPc_onlyFlags (fcmpFlags_state ..) (fcmpFlags_fst ..)⟩⟩

end Sys2Proof.Machine

namespace Sys2Proof.Machine

/-! # Floating-point loads and stores (R257 to R262) -/

section

variable {s : State} (hfp : s.params.fpEnabled = true) (rt rn : Reg) (addr : BitVec 9)
include hfp

theorem exec_ldurs_eq : exec (.ldurs rt rn addr) s =
    s.loadThen false (s.dAddr rn addr) 4 fun v => s.writeS rt (v.setWidth 32) :=
  State.withFp_of_enabled hfp _

theorem exec_ldurd_eq : exec (.ldurd rt rn addr) s = s.loadThen false (s.dAddr rn addr) 8 (s.writeD rt) :=
  State.withFp_of_enabled hfp _

theorem exec_sturs_eq :
    exec (.sturs rt rn addr) s = s.storeThen (s.dAddr rn addr) 4 ((s.readS rt).setWidth 64) :=
  State.withFp_of_enabled hfp _

theorem exec_sturd_eq : exec (.sturd rt rn addr) s = s.storeThen (s.dAddr rn addr) 8 (s.readD rt) :=
  State.withFp_of_enabled hfp _

end

/-- The value of `n` bytes is its own low `n` bytes. -/
theorem ValueAt.setWidth_setWidth {m : Memory} {o : ByteOrder} {addr : Word} {n : Nat} {v : Word}
    (h : ValueAt m o addr n v) : (v.setWidth (8 * n)).setWidth 64 = v := by
  apply BitVec.eq_of_toNat_eq
  rw [BitVec.toNat_setWidth, BitVec.toNat_setWidth, Nat.mod_eq_of_lt h.1, Nat.mod_eq_of_lt v.isLt]

/-- What a store does where its access is allowed. -/
theorem storeThen_effect {s : State} (hm : s.mem.wf) {addr : Word} {n : Nat} (hn : n ≤ 8)
    (hok : AccessAllowed s.params false addr n) (v : Word) :
    ∃ t, s.storeThen addr n v = .next t ∧ OnlyStore s t addr n v :=
  ⟨_, storeThen_eq_of_allowed hok v, State.storeMem_onlyStore hm addr hn v⟩

/-- What a load into a single register does where its access is allowed. -/
theorem loadThen_writeS_effect {s : State} {addr : Word} (hok : AccessAllowed s.params false addr 4) (rt : Reg) :
    ∃ t, (s.loadThen false addr 4 fun v => s.writeS rt (v.setWidth 32)) = .next t ∧
      OnlyD s t rt fun w => ValueAt s.mem s.params.byteOrder addr 4 ((w.setWidth 32).setWidth 64) := by
  obtain ⟨v, hv, ht⟩ := loadThen_valueAt (by decide) hok fun v => s.writeS rt (v.setWidth 32)
  refine ⟨_, ht, s.writeS_nextPc_onlyD rt (holds := fun w => ValueAt _ _ _ _ (w.setWidth 64)) ?_⟩
  exact hv.setWidth_setWidth.symm ▸ hv

/-- What a load into a double register does where its access is allowed. -/
theorem loadThen_writeD_effect {s : State} {addr : Word} (hok : AccessAllowed s.params false addr 8) (rt : Reg) :
    ∃ t, s.loadThen false addr 8 (s.writeD rt) = .next t ∧
      OnlyD s t rt fun w => ValueAt s.mem s.params.byteOrder addr 8 w := by
  obtain ⟨v, hv, ht⟩ := loadThen_valueAt (by decide) hok (s.writeD rt)
  exact ⟨_, ht, s.writeD_nextPc_onlyD rt hv⟩

/-- Settles O43: with floating point enabled each is a load or a store of its size. -/
theorem floatingPointTransfers : Obligations.FloatingPointTransfers := by
  intro s rt rn addr hm hfp
  dsimp only
  rw [exec_ldurs_eq hfp, exec_ldurd_eq hfp, exec_sturs_eq hfp, exec_sturd_eq hfp]
  exact ⟨fun hok => loadThen_writeS_effect hok rt, fun hok => loadThen_writeD_effect hok rt,
    fun hok => storeThen_effect hm (by decide) hok _, fun hok => storeThen_effect hm (by decide) hok _,
    fun hnot => ⟨loadThen_raised hnot _, storeThen_raised hnot _⟩,
    fun hnot => ⟨loadThen_raised hnot _, storeThen_raised hnot _⟩,
    decode_encode_of_row (i := .ldurs rt rn addr) (Laws.RowOf.ldurs ..),
    decode_encode_of_row (i := .ldurd rt rn addr) (Laws.RowOf.ldurd ..),
    decode_encode_of_row (i := .sturs rt rn addr) (Laws.RowOf.sturs ..),
    decode_encode_of_row (i := .sturd rt rn addr) (Laws.RowOf.sturd ..)⟩

/-! ## Bits through memory (R262) -/

/-- A load straight after an `n`-byte store of `v` at its address goes on with the low `n` bytes of `v`. -/
theorem loadThen_after_storeMem {s : State} (hm : s.mem.wf) {addr : Word} {n : Nat} (hn : n ≤ 8)
    (hok : AccessAllowed s.params false addr n) (v : Word) (use : Word → State) :
    (s.storeMem addr n v).nextPc.loadThen false addr n use =
      .next (use ((v.setWidth (8 * n)).setWidth 64)).nextPc := by
  obtain ⟨w, hw, hload⟩ := loadThen_valueAt (s := (s.storeMem addr n v).nextPc) hn hok use
  have hstored : (s.mem.store s.params.byteOrder addr n v).load s.params.byteOrder addr n =
      (v.setWidth (8 * n)).setWidth 64 :=
    (Memory.load_store_first hm _ addr hn v le_rfl).trans (partOf_whole ..)
  have hvalue : w = (v.setWidth (8 * n)).setWidth 64 := (Memory.load_eq_of_valueAt hn hw).symm.trans hstored
  rw [hload, hvalue]

theorem execSeq_pair {i j : Instr} {s t u : State} (hi : exec i s = .next t) (hj : exec j t = .next u) :
    execSeq [i, j] s = .next u :=
  (execSeq_cons_of_next hi [j]).trans (execSeq_cons_of_next hj [])

/-- A double load straight after a double store of `v` at its address reads `v`. -/
theorem exec_ldurd_after_storeMem {s : State} (hm : s.mem.wf) (hfp : s.params.fpEnabled = true) (rd rn : Reg)
    (addr : BitVec 9) (hok : AccessAllowed s.params false (s.dAddr rn addr) 8) (v : Word) :
    ∃ t, exec (.ldurd rd rn addr) (s.storeMem (s.dAddr rn addr) 8 v).nextPc = .next t ∧ t.readD rd = v :=
  ⟨_, (exec_ldurd_eq (s := (s.storeMem _ 8 v).nextPc) hfp rd rn addr).trans
    (loadThen_after_storeMem hm (by decide) hok v _), by simp [State.readD_writeD]⟩

/-- A single load straight after a single store of `v` at its address reads `v`. -/
theorem exec_ldurs_after_storeMem {s : State} (hm : s.mem.wf) (hfp : s.params.fpEnabled = true) (rd rn : Reg)
    (addr : BitVec 9) (hok : AccessAllowed s.params false (s.dAddr rn addr) 4) (v : Word32) :
    ∃ t, exec (.ldurs rd rn addr) (s.storeMem (s.dAddr rn addr) 4 (v.setWidth 64)).nextPc = .next t ∧
      t.readS rd = v :=
  ⟨_, (exec_ldurs_eq (s := (s.storeMem _ 4 _).nextPc) hfp rd rn addr).trans
    (loadThen_after_storeMem hm (by decide) hok _ _),
    (State.readS_writeS_self ..).trans (by simp)⟩

/-- Settles O44: each store leaves the state a load of the same size reads back. -/
theorem bitsThroughMemory : Obligations.BitsThroughMemory := by
  intro s rt rn rd addr hm hfp
  refine ⟨fun hok => ?double, fun hok => ?single⟩
  case double =>
    have hsturd := (exec_sturd_eq hfp rt rn addr).trans (storeThen_eq_of_allowed hok _)
    have hstur := (stur_storesX rt rn addr).exec_eq_of_allowed hok
    refine ⟨?sturdLdurd, fun hrd => ?sturdLdur, ?sturLdurd⟩
    case sturdLdurd =>
      obtain ⟨t, ht, hread⟩ := exec_ldurd_after_storeMem hm hfp rd rn addr hok (s.readD rt)
      exact ⟨t, execSeq_pair hsturd ht, hread⟩
    case sturdLdur =>
      obtain ⟨t, ht, hread⟩ := (ldur_loadsX rd rn addr).exec_after_storeMem hrd hm hok (s.readD rt)
      exact ⟨t, execSeq_pair hsturd ht, by simpa using hread⟩
    case sturLdurd =>
      obtain ⟨t, ht, hread⟩ := exec_ldurd_after_storeMem hm hfp rd rn addr hok (s.readX rt)
      exact ⟨t, execSeq_pair hstur ht, hread⟩
  case single =>
    have hsturs := (exec_sturs_eq hfp rt rn addr).trans (storeThen_eq_of_allowed hok _)
    obtain ⟨t, ht, hread⟩ := exec_ldurs_after_storeMem hm hfp rd rn addr hok (s.readS rt)
    exact ⟨t, execSeq_pair hsturs ht, hread⟩

end Sys2Proof.Machine

namespace Sys2Proof

/-! # At most one row matches a word (R97) -/

/-- Settles O2: of two rows that match a word neither is apart from the other, and all rows of the table are. -/
theorem noWordHasTwoRows : Obligations.NoWordHasTwoRows := by
  intro w
  have hapart := opcodeTable_pairwise_apart.filter fun r => w &&& r.mask == r.bits
  have hmatch : ∀ r ∈ opcodeTable.filter fun r => w &&& r.mask == r.bits, w &&& r.mask = r.bits :=
    fun r hr => beq_iff_eq.1 (List.mem_filter.1 hr).2
  generalize opcodeTable.filter (fun r => w &&& r.mask == r.bits) = rows at hapart hmatch
  match rows with
  | [] => exact Nat.zero_le 1
  | [_] => exact Nat.le_refl 1
  | a :: b :: _ =>
    have hab : a.Apart b := List.rel_of_pairwise_cons hapart List.mem_cons_self
    have hb : w &&& b.mask = b.bits := hmatch b (List.mem_cons_of_mem a List.mem_cons_self)
    exact absurd hb (hab.not_both (hmatch a List.mem_cons_self))

/-! # Encoding a decoded word (R98, R100) -/

/-- A word that decodes matches a row, which reads the instruction from it. -/
theorem exists_row_of_decode {w : Word32} {i : Instr} (h : decode w = .ok i) :
    ∃ r ∈ opcodeTable, w &&& r.mask = r.bits ∧ r.build w = i := by
  rw [decode] at h
  cases hfind : opcodeTable.find? fun r => w &&& r.mask == r.bits with
  | none => rw [hfind] at h; cases h
  | some r =>
    rw [hfind] at h
    have hmatch : w &&& r.mask = r.bits := beq_iff_eq.1 (List.find?_some hfind :)
    exact ⟨r, List.mem_of_find?_eq_some hfind, hmatch, Except.ok.inj h⟩

/-! ## A word is its fields -/

/-- A field all of whose bits a row fixes. -/
theorem extractLsb'_eq_of_and_eq {w mask bits : Word32} (h : w &&& mask = bits) {start k : Nat}
    (hmask : mask.extractLsb' start k = BitVec.allOnes k) : w.extractLsb' start k = bits.extractLsb' start k := by
  rw [← h, BitVec.extractLsb'_and, hmask, BitVec.and_allOnes]

/-- A field placed in a word reads back. -/
theorem extractLsb'_setWidth_shiftLeft {k start : Nat} (v : BitVec k) (h : start + k ≤ 32) :
    (v.setWidth 32 <<< start).extractLsb' start k = v := by
  apply BitVec.eq_of_getLsbD_eq
  intro i hi
  have hlt : start + i < 32 ∧ i < 32 := by omega
  simp [hi, hlt]

theorem encodeR_fields (w : Word32) :
    encodeR (fieldOpcode11 w) (fieldRm w) (fieldShamt w) (fieldRn w) (fieldRd w) = w := by
  unfold encodeR fieldOpcode11 fieldRm fieldShamt fieldRn fieldRd
  repeat rw [BitVec.extractLsb'_append_extractLsb'_eq_extractLsb' (by decide)]
  rw [BitVec.extractLsb'_eq_self]

theorem encodeI_fields (w : Word32) : encodeI (w.extractLsb' 22 10) (fieldImm w) (fieldRn w) (fieldRd w) = w := by
  unfold encodeI fieldImm fieldRn fieldRd
  repeat rw [BitVec.extractLsb'_append_extractLsb'_eq_extractLsb' (by decide)]
  rw [BitVec.extractLsb'_eq_self]

theorem encodeB_fields (w : Word32) : encodeB (w.extractLsb' 26 6) (fieldBr w) = w := by
  unfold encodeB fieldBr
  repeat rw [BitVec.extractLsb'_append_extractLsb'_eq_extractLsb' (by decide)]
  rw [BitVec.extractLsb'_eq_self]

theorem encodeCB_fields (w : Word32) : encodeCB (w.extractLsb' 24 8) (fieldCbr w) (fieldRd w) = w := by
  unfold encodeCB fieldCbr fieldRd
  repeat rw [BitVec.extractLsb'_append_extractLsb'_eq_extractLsb' (by decide)]
  rw [BitVec.extractLsb'_eq_self]

theorem encodeIM_fields (w : Word32) :
    encodeIM (w.extractLsb' 23 9) (fieldHw w) (fieldMov w) (fieldRd w) = w := by
  unfold encodeIM fieldHw fieldMov fieldRd
  repeat rw [BitVec.extractLsb'_append_extractLsb'_eq_extractLsb' (by decide)]
  rw [BitVec.extractLsb'_eq_self]

/-- The D format holds every bit of the word but its op field (R84). -/
theorem encodeD_fields (w : Word32) :
    encodeD (fieldOpcode11 w) (fieldAddr w) (fieldRn w) (fieldRd w) = w &&& ~~~0xC00 := by
  have hfields : fieldOpcode11 w ++ fieldAddr w ++ w.extractLsb' 10 2 ++ fieldRn w ++ fieldRd w = w := by
    unfold fieldOpcode11 fieldAddr fieldRn fieldRd
    repeat rw [BitVec.extractLsb'_append_extractLsb'_eq_extractLsb' (by decide)]
    rw [BitVec.extractLsb'_eq_self]
  calc encodeD (fieldOpcode11 w) (fieldAddr w) (fieldRn w) (fieldRd w)
    _ = (fieldOpcode11 w &&& .allOnes 11) ++ (fieldAddr w &&& .allOnes 9) ++ (w.extractLsb' 10 2 &&& 0#2) ++
        (fieldRn w &&& .allOnes 5) ++ (fieldRd w &&& .allOnes 5) := by
      simp only [BitVec.and_allOnes, BitVec.and_zero, encodeD, BitVec.ofNat_eq_ofNat]
    _ = (fieldOpcode11 w ++ fieldAddr w ++ w.extractLsb' 10 2 ++ fieldRn w ++ fieldRd w) &&&
        (BitVec.allOnes 11 ++ BitVec.allOnes 9 ++ 0#2 ++ BitVec.allOnes 5 ++ BitVec.allOnes 5) := by
      rw [← BitVec.and_append, ← BitVec.and_append, ← BitVec.and_append]
      exact BitVec.and_append.symm
    _ = w &&& ~~~0xC00 := congrArg₂ (· &&& ·) hfields (by decide)

/-- Masking in the R format goes field by field. -/
theorem encodeR_and_encodeR (op op' : BitVec 11) (rm rm' : Reg) (sh sh' : BitVec 6) (rn rn' rd rd' : Reg) :
    encodeR op rm sh rn rd &&& encodeR op' rm' sh' rn' rd' =
      encodeR (op &&& op') (rm &&& rm') (sh &&& sh') (rn &&& rn') (rd &&& rd') := by
  simp only [encodeR, ← BitVec.and_append]

/-- A word of the R format with some of its fields cleared. -/
theorem and_mask_encodeR {w mask : Word32} {rm : Reg} {sh : BitVec 6} {rn rd : Reg}
    (hmask : mask = encodeR (BitVec.allOnes 11) rm sh rn rd) :
    w &&& mask = encodeR (fieldOpcode11 w) (fieldRm w &&& rm) (fieldShamt w &&& sh) (fieldRn w &&& rn)
      (fieldRd w &&& rd) := by
  conv_lhs => rw [← encodeR_fields w, hmask, encodeR_and_encodeR, BitVec.and_allOnes]

/-- The R format without shamt (R98). -/
theorem encodeR_without_shamt (w : Word32) :
    encodeR (fieldOpcode11 w) (fieldRm w) 0 (fieldRn w) (fieldRd w) = w &&& ~~~0xFC00 := by
  rw [and_mask_encodeR (mask := ~~~0xFC00) (rm := .allOnes 5) (sh := 0) (rn := .allOnes 5) (rd := .allOnes 5)
    (by decide)]
  simp only [BitVec.and_allOnes, BitVec.and_zero, BitVec.ofNat_eq_ofNat]

/-- The R format without Rm: a shift's (R98). -/
theorem encodeR_without_rm (w : Word32) :
    encodeR (fieldOpcode11 w) 0 (fieldShamt w) (fieldRn w) (fieldRd w) = w &&& ~~~0x1F0000 := by
  rw [and_mask_encodeR (mask := ~~~0x1F0000) (rm := 0) (sh := .allOnes 6) (rn := .allOnes 5) (rd := .allOnes 5)
    (by decide)]
  simp only [BitVec.and_allOnes, BitVec.and_zero, BitVec.ofNat_eq_ofNat]

/-- The R format without Rd: a compare's (R98). -/
theorem encodeR_without_rd (w : Word32) :
    encodeR (fieldOpcode11 w) (fieldRm w) (fieldShamt w) (fieldRn w) 0 = w &&& ~~~0x1F := by
  rw [and_mask_encodeR (mask := ~~~0x1F) (rm := .allOnes 5) (sh := .allOnes 6) (rn := .allOnes 5) (rd := 0) (by decide)]
  simp only [BitVec.and_allOnes, BitVec.and_zero, BitVec.ofNat_eq_ofNat]

/-- The R format with Rn alone: BR's (R98). -/
theorem encodeR_rn_alone (w : Word32) :
    encodeR (fieldOpcode11 w) 0 0 (fieldRn w) 0 = w &&& ~~~0x1FFC1F := by
  rw [and_mask_encodeR (mask := ~~~0x1FFC1F) (rm := 0) (sh := 0) (rn := .allOnes 5) (rd := 0) (by decide)]
  simp only [BitVec.and_allOnes, BitVec.and_zero, BitVec.ofNat_eq_ofNat]

/-! ## The opcode of a word that matches a row -/

/-- A row's opcode stands in every word it matches. -/
theorem opcode_of_row {w mask : Word32} {start k : Nat} {op : BitVec k} (h : w &&& mask = op.setWidth 32 <<< start)
    (hmask : mask.extractLsb' start k = BitVec.allOnes k) (hlen : start + k ≤ 32) : w.extractLsb' start k = op :=
  (extractLsb'_eq_of_and_eq h hmask).trans (extractLsb'_setWidth_shiftLeft op hlen)

theorem fieldOpcode11_of_row {w : Word32} {op : BitVec 11} (h : w &&& 0xFFE00000 = op.setWidth 32 <<< 21) :
    fieldOpcode11 w = op :=
  opcode_of_row h (by decide) (by decide)

/-- The opcode and the shamt, of a row that fixes both. -/
theorem fields_of_row_shamt {w : Word32} {op : BitVec 11} {sh : BitVec 6}
    (h : w &&& 0xFFE0FC00 = (op.setWidth 32 <<< 21) ||| (sh.setWidth 32 <<< 10)) :
    fieldOpcode11 w = op ∧ fieldShamt w = sh := by
  have hrow := encodeR_and_op_shamt op 0 sh 0 0
  have hop : fieldOpcode11 w = fieldOpcode11 (encodeR op 0 sh 0 0) :=
    (extractLsb'_eq_of_and_eq h (by decide)).trans (extractLsb'_eq_of_and_eq hrow (by decide)).symm
  have hsh : fieldShamt w = fieldShamt (encodeR op 0 sh 0 0) :=
    (extractLsb'_eq_of_and_eq h (by decide)).trans (extractLsb'_eq_of_and_eq hrow (by decide)).symm
  exact ⟨hop.trans (fieldOpcode11_of_row (encodeR_and_op ..)), hsh.trans (fieldShamt_encodeR ..)⟩

/-- The opcode and the condition, of a row of B.cond. -/
theorem fields_of_row_cond {w : Word32} {op : BitVec 8} {cond : BitVec 5}
    (h : w &&& 0xFF00001F = (op.setWidth 32 <<< 24) ||| cond.setWidth 32) :
    w.extractLsb' 24 8 = op ∧ fieldRd w = cond := by
  have hrow := encodeCB_and_op_rt op 0 cond
  have hop : w.extractLsb' 24 8 = (encodeCB op 0 cond).extractLsb' 24 8 :=
    (extractLsb'_eq_of_and_eq h (by decide)).trans (extractLsb'_eq_of_and_eq hrow (by decide)).symm
  have hcond : fieldRd w = fieldRd (encodeCB op 0 cond) :=
    (extractLsb'_eq_of_and_eq h (by decide)).trans (extractLsb'_eq_of_and_eq hrow (by decide)).symm
  exact ⟨hop.trans (opcode_of_row (encodeCB_and_op ..) (by decide) (by decide)), hcond.trans (fieldRd_encodeCB ..)⟩

/-! ## Each row encodes back, by what it leaves unused -/

/-- Encoding what the row reads from a word it matches gives the word with its unused fields cleared. -/
def OpcodeRow.EncodesBack (r : OpcodeRow) : Prop :=
  ∀ w : Word32, w &&& r.mask = r.bits → encode (r.build w) = w &&& ~~~unusedMask (r.build w).mnemonic

namespace OpcodeRow

/-- A row of the D format. -/
def ofD (op : BitVec 11) (f : Reg → Reg → BitVec 9 → Instr) : OpcodeRow :=
  ⟨0xFFE00000, op.setWidth 32 <<< 21, fun w => f (fieldRd w) (fieldRn w) (fieldAddr w)⟩

/-- A row of the B format. -/
def ofB (op : BitVec 6) (f : BitVec 26 → Instr) : OpcodeRow :=
  ⟨0xFC000000, op.setWidth 32 <<< 26, fun w => f (fieldBr w)⟩

/-- A row of the CB format with a register. -/
def ofCB (op : BitVec 8) (f : Reg → BitVec 19 → Instr) : OpcodeRow :=
  ⟨0xFF000000, op.setWidth 32 <<< 24, fun w => f (fieldRd w) (fieldCbr w)⟩

/-- A row of the CB format with a condition (R95). -/
def ofCond (cond : BitVec 5) (f : BitVec 19 → Instr) : OpcodeRow :=
  ⟨0xFF00001F, ((0b01010100 : BitVec 8).setWidth 32 <<< 24) ||| cond.setWidth 32, fun w => f (fieldCbr w)⟩

/-- A row of the IM format. -/
def ofIM (op : BitVec 9) (f : Reg → BitVec 16 → BitVec 2 → Instr) : OpcodeRow :=
  ⟨0xFF800000, op.setWidth 32 <<< 23, fun w => f (fieldRd w) (fieldMov w) (fieldHw w)⟩

/-- A row of the R format with shamt unused. -/
theorem encodesBack_ofR (op : BitVec 11) (f : Reg → Reg → Reg → Instr)
    (hf : ∀ rd rn rm, encode (f rd rn rm) = encodeR op rm 0 rn rd ∧ unusedMask (f rd rn rm).mnemonic = 0xFC00) :
    (ofR op f).EncodesBack := by
  intro w hw
  simp only [ofR] at hw ⊢
  rw [(hf ..).1, (hf ..).2, ← encodeR_without_shamt, fieldOpcode11_of_row hw]

/-- A row of the R format with Rm unused: a shift's. -/
theorem encodesBack_ofShift (op : BitVec 11) (f : Reg → Reg → BitVec 6 → Instr)
    (hf : ∀ rd rn sh, encode (f rd rn sh) = encodeR op 0 sh rn rd ∧ unusedMask (f rd rn sh).mnemonic = 0x1F0000) :
    (ofShift op f).EncodesBack := by
  intro w hw
  simp only [ofShift] at hw ⊢
  rw [(hf ..).1, (hf ..).2, ← encodeR_without_rm, fieldOpcode11_of_row hw]

/-- The row of BR. -/
theorem encodesBack_br : (ofR 0x6B0 fun _ rn _ => .br rn).EncodesBack := by
  intro w hw
  simp only [ofR, encode, Instr.mnemonic, unusedMask] at hw ⊢
  rw [← encodeR_rn_alone, fieldOpcode11_of_row hw]

/-- A row of the R format with a shamt that must match and Rd unused: a compare's. -/
theorem encodesBack_compare (op : BitVec 11) (sh : BitVec 6) (f : Reg → Reg → Instr)
    (hf : ∀ rn rm, encode (f rn rm) = encodeR op rm sh rn 0 ∧ unusedMask (f rn rm).mnemonic = 0x1F) :
    (ofRShamt op sh fun _ => f).EncodesBack := by
  intro w hw
  obtain ⟨hop, hsh⟩ := fields_of_row_shamt hw
  simp only [ofRShamt]
  rw [(hf ..).1, (hf ..).2, ← encodeR_without_rd, hop, hsh]

theorem encodesBack_ofD (op : BitVec 11) (f : Reg → Reg → BitVec 9 → Instr)
    (hf : ∀ rt rn addr, encode (f rt rn addr) = encodeD op addr rn rt ∧ unusedMask (f rt rn addr).mnemonic = 0xC00) :
    (ofD op f).EncodesBack := by
  intro w hw
  simp only [ofD] at hw ⊢
  rw [(hf ..).1, (hf ..).2, ← encodeD_fields, fieldOpcode11_of_row hw]

/-- Where the rule of a row gives every field a meaning, it is enough that encoding gives the word back. -/
theorem encodesBack_of_all_used {r : OpcodeRow} (hunused : ∀ w, unusedMask (r.build w).mnemonic = 0)
    (h : ∀ w, w &&& r.mask = r.bits → encode (r.build w) = w) : r.EncodesBack := by
  intro w hw
  rw [hunused, h w hw, BitVec.ofNat_eq_ofNat, BitVec.not_zero, BitVec.and_allOnes]

/-- A row of the R format with a shamt that must match. -/
theorem encodesBack_ofRShamt (op : BitVec 11) (sh : BitVec 6) (f : Reg → Reg → Reg → Instr)
    (hf : ∀ rd rn rm, encode (f rd rn rm) = encodeR op rm sh rn rd ∧ unusedMask (f rd rn rm).mnemonic = 0) :
    (ofRShamt op sh f).EncodesBack :=
  encodesBack_of_all_used (fun _ => (hf ..).2) fun w hw => by
    obtain ⟨hop, hsh⟩ := fields_of_row_shamt hw
    exact (hf ..).1.trans (hop ▸ hsh ▸ encodeR_fields w)

theorem encodesBack_ofI (op : BitVec 10) (f : Reg → Reg → BitVec 12 → Instr)
    (hf : ∀ rd rn imm, encode (f rd rn imm) = encodeI op imm rn rd ∧ unusedMask (f rd rn imm).mnemonic = 0) :
    (ofI op f).EncodesBack :=
  encodesBack_of_all_used (fun _ => (hf ..).2) fun w hw => by
    have hop : w.extractLsb' 22 10 = op := opcode_of_row (mask := 0xFFC00000) hw (by decide) (by decide)
    exact (hf ..).1.trans (hop ▸ encodeI_fields w)

theorem encodesBack_ofB (op : BitVec 6) (f : BitVec 26 → Instr)
    (hf : ∀ br, encode (f br) = encodeB op br ∧ unusedMask (f br).mnemonic = 0) :
    (ofB op f).EncodesBack :=
  encodesBack_of_all_used (fun _ => (hf _).2) fun w hw => by
    have hop : w.extractLsb' 26 6 = op := opcode_of_row (mask := 0xFC000000) hw (by decide) (by decide)
    exact (hf _).1.trans (hop ▸ encodeB_fields w)

theorem encodesBack_ofCB (op : BitVec 8) (f : Reg → BitVec 19 → Instr)
    (hf : ∀ rt cbr, encode (f rt cbr) = encodeCB op cbr rt ∧ unusedMask (f rt cbr).mnemonic = 0) :
    (ofCB op f).EncodesBack :=
  encodesBack_of_all_used (fun _ => (hf ..).2) fun w hw => by
    have hop : w.extractLsb' 24 8 = op := opcode_of_row (mask := 0xFF000000) hw (by decide) (by decide)
    exact (hf ..).1.trans (hop ▸ encodeCB_fields w)

theorem encodesBack_ofCond (cond : BitVec 5) (f : BitVec 19 → Instr)
    (hf : ∀ cbr, encode (f cbr) = encodeCB 0b01010100 cbr cond ∧ unusedMask (f cbr).mnemonic = 0) :
    (ofCond cond f).EncodesBack :=
  encodesBack_of_all_used (fun _ => (hf _).2) fun w hw => by
    obtain ⟨hop, hcond⟩ := fields_of_row_cond hw
    exact (hf _).1.trans (hop ▸ hcond ▸ encodeCB_fields w)

theorem encodesBack_ofIM (op : BitVec 9) (f : Reg → BitVec 16 → BitVec 2 → Instr)
    (hf : ∀ rd mov hw, encode (f rd mov hw) = encodeIM op hw mov rd ∧ unusedMask (f rd mov hw).mnemonic = 0) :
    (ofIM op f).EncodesBack :=
  encodesBack_of_all_used (fun _ => (hf ..).2) fun w hw => by
    have hop : w.extractLsb' 23 9 = op := opcode_of_row (mask := 0xFF800000) hw (by decide) (by decide)
    exact (hf ..).1.trans (hop ▸ encodeIM_fields w)

end OpcodeRow

/-! ## All rows -/

section
open OpcodeRow

theorem opcodeRows1_encodesBack : ∀ r ∈ opcodeRows1, r.EncodesBack := by
  simp only [opcodeRows1, List.forall_mem_cons]
  exact ⟨encodesBack_ofB 0b000101 .b fun _ => ⟨rfl, rfl⟩,
    encodesBack_ofRShamt 0x0F1 0b000010 .fmuls fun _ _ _ => ⟨rfl, rfl⟩,
    encodesBack_ofRShamt 0x0F1 0b000110 .fdivs fun _ _ _ => ⟨rfl, rfl⟩,
    encodesBack_compare 0x0F1 0b001000 .fcmps fun _ _ => ⟨rfl, rfl⟩,
    encodesBack_ofRShamt 0x0F1 0b001010 .fadds fun _ _ _ => ⟨rfl, rfl⟩,
    encodesBack_ofRShamt 0x0F1 0b001110 .fsubs fun _ _ _ => ⟨rfl, rfl⟩,
    encodesBack_ofRShamt 0x0F3 0b000010 .fmuld fun _ _ _ => ⟨rfl, rfl⟩,
    encodesBack_ofRShamt 0x0F3 0b000110 .fdivd fun _ _ _ => ⟨rfl, rfl⟩,
    encodesBack_compare 0x0F3 0b001000 .fcmpd fun _ _ => ⟨rfl, rfl⟩,
    encodesBack_ofRShamt 0x0F3 0b001010 .faddd fun _ _ _ => ⟨rfl, rfl⟩,
    encodesBack_ofRShamt 0x0F3 0b001110 .fsubd fun _ _ _ => ⟨rfl, rfl⟩,
    encodesBack_ofD 0x1C0 .sturb fun _ _ _ => ⟨rfl, rfl⟩,
    encodesBack_ofD 0x1C2 .ldurb fun _ _ _ => ⟨rfl, rfl⟩,
    encodesBack_ofCond 0 .bEq fun _ => ⟨rfl, rfl⟩,
    encodesBack_ofCond 1 .bNe fun _ => ⟨rfl, rfl⟩,
    encodesBack_ofCond 2 .bHs fun _ => ⟨rfl, rfl⟩,
    encodesBack_ofCond 3 .bLo fun _ => ⟨rfl, rfl⟩,
    List.forall_mem_nil _⟩

theorem opcodeRows2_encodesBack : ∀ r ∈ opcodeRows2, r.EncodesBack := by
  simp only [opcodeRows2, List.forall_mem_cons]
  exact ⟨encodesBack_ofCond 4 .bMi fun _ => ⟨rfl, rfl⟩,
    encodesBack_ofCond 5 .bPl fun _ => ⟨rfl, rfl⟩,
    encodesBack_ofCond 6 .bVs fun _ => ⟨rfl, rfl⟩,
    encodesBack_ofCond 7 .bVc fun _ => ⟨rfl, rfl⟩,
    encodesBack_ofCond 8 .bHi fun _ => ⟨rfl, rfl⟩,
    encodesBack_ofCond 9 .bLs fun _ => ⟨rfl, rfl⟩,
    encodesBack_ofCond 10 .bGe fun _ => ⟨rfl, rfl⟩,
    encodesBack_ofCond 11 .bLt fun _ => ⟨rfl, rfl⟩,
    encodesBack_ofCond 12 .bGt fun _ => ⟨rfl, rfl⟩,
    encodesBack_ofCond 13 .bLe fun _ => ⟨rfl, rfl⟩,
    encodesBack_ofD 0x3C0 .sturh fun _ _ _ => ⟨rfl, rfl⟩,
    encodesBack_ofD 0x3C2 .ldurh fun _ _ _ => ⟨rfl, rfl⟩,
    encodesBack_ofR 0x450 .and fun _ _ _ => ⟨rfl, rfl⟩,
    encodesBack_ofR 0x458 .add fun _ _ _ => ⟨rfl, rfl⟩,
    encodesBack_ofI 0b1001000100 .addi fun _ _ _ => ⟨rfl, rfl⟩,
    encodesBack_ofI 0b1001001000 .andi fun _ _ _ => ⟨rfl, rfl⟩,
    encodesBack_ofB 0b100101 .bl fun _ => ⟨rfl, rfl⟩,
    List.forall_mem_nil _⟩

theorem opcodeRows3_encodesBack : ∀ r ∈ opcodeRows3, r.EncodesBack := by
  simp only [opcodeRows3, List.forall_mem_cons]
  exact ⟨encodesBack_ofRShamt 0x4D6 0b000010 .sdiv fun _ _ _ => ⟨rfl, rfl⟩,
    encodesBack_ofRShamt 0x4D6 0b000011 .udiv fun _ _ _ => ⟨rfl, rfl⟩,
    encodesBack_ofRShamt 0x4D8 0b011111 .mul fun _ _ _ => ⟨rfl, rfl⟩,
    encodesBack_ofR 0x4DA .smulh fun _ _ _ => ⟨rfl, rfl⟩,
    encodesBack_ofR 0x4DE .umulh fun _ _ _ => ⟨rfl, rfl⟩,
    encodesBack_ofR 0x550 .orr fun _ _ _ => ⟨rfl, rfl⟩,
    encodesBack_ofR 0x558 .adds fun _ _ _ => ⟨rfl, rfl⟩,
    encodesBack_ofI 0b1011000100 .addis fun _ _ _ => ⟨rfl, rfl⟩,
    encodesBack_ofI 0b1011001000 .orri fun _ _ _ => ⟨rfl, rfl⟩,
    encodesBack_ofCB 0b10110100 .cbz fun _ _ => ⟨rfl, rfl⟩,
    encodesBack_ofCB 0b10110101 .cbnz fun _ _ => ⟨rfl, rfl⟩,
    encodesBack_ofD 0x5C0 .sturw fun _ _ _ => ⟨rfl, rfl⟩,
    encodesBack_ofD 0x5C4 .ldursw fun _ _ _ => ⟨rfl, rfl⟩,
    encodesBack_ofD 0x5E0 .sturs fun _ _ _ => ⟨rfl, rfl⟩,
    encodesBack_ofD 0x5E2 .ldurs fun _ _ _ => ⟨rfl, rfl⟩,
    encodesBack_ofR 0x640 (fun rt rn rm => .stxr rt rm rn) fun _ _ _ => ⟨rfl, rfl⟩,
    encodesBack_ofD 0x642 .ldxr fun _ _ _ => ⟨rfl, rfl⟩,
    List.forall_mem_nil _⟩

theorem opcodeRows4_encodesBack : ∀ r ∈ opcodeRows4, r.EncodesBack := by
  simp only [opcodeRows4, List.forall_mem_cons]
  exact ⟨encodesBack_ofR 0x650 .eor fun _ _ _ => ⟨rfl, rfl⟩,
    encodesBack_ofR 0x658 .sub fun _ _ _ => ⟨rfl, rfl⟩,
    encodesBack_ofI 0b1101000100 .subi fun _ _ _ => ⟨rfl, rfl⟩,
    encodesBack_ofI 0b1101001000 .eori fun _ _ _ => ⟨rfl, rfl⟩,
    encodesBack_ofIM 0b110100101 .movz fun _ _ _ => ⟨rfl, rfl⟩,
    encodesBack_ofShift 0x69A .lsr fun _ _ _ => ⟨rfl, rfl⟩,
    encodesBack_ofShift 0x69B .lsl fun _ _ _ => ⟨rfl, rfl⟩,
    encodesBack_br,
    encodesBack_ofR 0x750 .ands fun _ _ _ => ⟨rfl, rfl⟩,
    encodesBack_ofR 0x758 .subs fun _ _ _ => ⟨rfl, rfl⟩,
    encodesBack_ofI 0b1111000100 .subis fun _ _ _ => ⟨rfl, rfl⟩,
    encodesBack_ofI 0b1111001000 .andis fun _ _ _ => ⟨rfl, rfl⟩,
    encodesBack_ofIM 0b111100101 .movk fun _ _ _ => ⟨rfl, rfl⟩,
    encodesBack_ofD 0x7C0 .stur fun _ _ _ => ⟨rfl, rfl⟩,
    encodesBack_ofD 0x7C2 .ldur fun _ _ _ => ⟨rfl, rfl⟩,
    encodesBack_ofD 0x7E0 .sturd fun _ _ _ => ⟨rfl, rfl⟩,
    encodesBack_ofD 0x7E2 .ldurd fun _ _ _ => ⟨rfl, rfl⟩,
    List.forall_mem_nil _⟩

end

theorem opcodeTable_encodesBack : ∀ r ∈ opcodeTable, r.EncodesBack := by
  simp only [opcodeTable, List.forall_mem_append]
  exact ⟨⟨⟨opcodeRows1_encodesBack, opcodeRows2_encodesBack⟩, opcodeRows3_encodesBack⟩, opcodeRows4_encodesBack⟩

/-- Settles O4: the row that reads the instruction from the word encodes it back. -/
theorem encodeOfDecode : Obligations.EncodeOfDecode := by
  intro w i h
  obtain ⟨r, hr, hmatch, rfl⟩ := exists_row_of_decode h
  exact opcodeTable_encodesBack r hr w hmatch

/-! # Decoding an encoded instruction (R97, R100, R61) -/

/-- Every instruction has its row: the lemmas of the rows, put together. -/
theorem rowOf (i : Instr) : Laws.RowOf.Statement i := by
  cases i with
  | b => exact Laws.RowOf.b ..
  | fmuls => exact Laws.RowOf.fmuls ..
  | fdivs => exact Laws.RowOf.fdivs ..
  | fcmps => exact Laws.RowOf.fcmps ..
  | fadds => exact Laws.RowOf.fadds ..
  | fsubs => exact Laws.RowOf.fsubs ..
  | fmuld => exact Laws.RowOf.fmuld ..
  | fdivd => exact Laws.RowOf.fdivd ..
  | fcmpd => exact Laws.RowOf.fcmpd ..
  | faddd => exact Laws.RowOf.faddd ..
  | fsubd => exact Laws.RowOf.fsubd ..
  | sturb => exact Laws.RowOf.sturb ..
  | ldurb => exact Laws.RowOf.ldurb ..
  | bEq => exact Laws.RowOf.bEq ..
  | bNe => exact Laws.RowOf.bNe ..
  | bHs => exact Laws.RowOf.bHs ..
  | bLo => exact Laws.RowOf.bLo ..
  | bMi => exact Laws.RowOf.bMi ..
  | bPl => exact Laws.RowOf.bPl ..
  | bVs => exact Laws.RowOf.bVs ..
  | bVc => exact Laws.RowOf.bVc ..
  | bHi => exact Laws.RowOf.bHi ..
  | bLs => exact Laws.RowOf.bLs ..
  | bGe => exact Laws.RowOf.bGe ..
  | bLt => exact Laws.RowOf.bLt ..
  | bGt => exact Laws.RowOf.bGt ..
  | bLe => exact Laws.RowOf.bLe ..
  | sturh => exact Laws.RowOf.sturh ..
  | ldurh => exact Laws.RowOf.ldurh ..
  | and => exact Laws.RowOf.and ..
  | add => exact Laws.RowOf.add ..
  | addi => exact Laws.RowOf.addi ..
  | andi => exact Laws.RowOf.andi ..
  | bl => exact Laws.RowOf.bl ..
  | sdiv => exact Laws.RowOf.sdiv ..
  | udiv => exact Laws.RowOf.udiv ..
  | mul => exact Laws.RowOf.mul ..
  | smulh => exact Laws.RowOf.smulh ..
  | umulh => exact Laws.RowOf.umulh ..
  | orr => exact Laws.RowOf.orr ..
  | adds => exact Laws.RowOf.adds ..
  | addis => exact Laws.RowOf.addis ..
  | orri => exact Laws.RowOf.orri ..
  | cbz => exact Laws.RowOf.cbz ..
  | cbnz => exact Laws.RowOf.cbnz ..
  | sturw => exact Laws.RowOf.sturw ..
  | ldursw => exact Laws.RowOf.ldursw ..
  | sturs => exact Laws.RowOf.sturs ..
  | ldurs => exact Laws.RowOf.ldurs ..
  | stxr => exact Laws.RowOf.stxr ..
  | ldxr => exact Laws.RowOf.ldxr ..
  | eor => exact Laws.RowOf.eor ..
  | sub => exact Laws.RowOf.sub ..
  | subi => exact Laws.RowOf.subi ..
  | eori => exact Laws.RowOf.eori ..
  | movz => exact Laws.RowOf.movz ..
  | lsr => exact Laws.RowOf.lsr ..
  | lsl => exact Laws.RowOf.lsl ..
  | br => exact Laws.RowOf.br ..
  | ands => exact Laws.RowOf.ands ..
  | subs => exact Laws.RowOf.subs ..
  | subis => exact Laws.RowOf.subis ..
  | andis => exact Laws.RowOf.andis ..
  | movk => exact Laws.RowOf.movk ..
  | stur => exact Laws.RowOf.stur ..
  | ldur => exact Laws.RowOf.ldur ..
  | sturd => exact Laws.RowOf.sturd ..
  | ldurd => exact Laws.RowOf.ldurd ..

theorem decode_encode (i : Instr) : decode (encode i) = .ok i := decode_encode_of_row (rowOf i)

/-- The encoder leaves unused fields zero: its word is what its instruction encodes to, once decoded (R98). -/
theorem encode_and_unusedMask (i : Instr) : encode i &&& unusedMask i.mnemonic = 0 := by
  have hback : encode i = encode i &&& ~~~unusedMask i.mnemonic := encodeOfDecode _ i (decode_encode i)
  rw [hback, BitVec.and_assoc, BitVec.and_comm (~~~_), BitVec.and_not_self]
  exact BitVec.and_zero

/-- A launch decodes a word that sets no unused field to an instruction it implements. -/
theorem decodeFor_ok {p : Params} {w : Word32} {i : Instr} (h : decode w = .ok i) (hi : i.wellFormed p = true)
    (hunused : p.strictUnused = true → w &&& unusedMask i.mnemonic = 0) : decodeFor p w = .ok i := by
  have hnot : ¬ (p.strictUnused && w &&& unusedMask i.mnemonic != 0) = true := by
    simpa using hunused
  simp only [decodeFor, h]
  rw [if_neg hnot, if_pos hi]

/-! ## From bytes -/

@[simp] theorem ByteOrder.arrange_arrange (o : ByteOrder) (bs : List Byte) : o.arrange (o.arrange bs) = bs := by
  cases o with
  | big => rfl
  | little => exact List.reverse_reverse bs

open Machine in
/-- A value of `n` bytes is joined from its bytes. -/
theorem joinBE_bytesBE {n : Nat} (hn : n ≤ 8) {v : Word} (hv : v.toNat < 2 ^ (8 * n)) : joinBE (bytesBE n v) = v := by
  have hjoin : (joinBE (bytesBE n v)).toNat < 2 ^ (8 * n) := by simpa using joinBE_lt (bytesBE n v)
  refine eq_of_byteOf_eq .big hjoin hv fun j hj => ?_
  have hbyte := byteOf_joinBE_arrange .big (bytesBE n v) (by simpa using hn) (j := j) (by simpa using hj)
  rw [getElem_bytesBE, length_bytesBE] at hbyte
  exact hbyte

/-- The word whose bytes an encoder wrote is the encoder's word, in either order (R61). -/
theorem wordOfBytes_bytes (o : ByteOrder) (w : Word32) :
    wordOfBytes o (o.arrange (bytesBE 4 (w.setWidth 64))) = w := by
  have hlt : (w.setWidth 64).toNat < 2 ^ (8 * 4) := by
    rw [BitVec.toNat_setWidth_of_le (by decide)]
    exact w.isLt
  rw [wordOfBytes, ByteOrder.arrange_arrange, joinBE_bytesBE (by decide) hlt]
  exact BitVec.setWidth_setWidth_of_le w (by decide)

/-- The decoder of bytes decodes the word of the first four. -/
theorem decodeBytes_append (o : ByteOrder) {bs : List Byte} (h : bs.length = 4) (rest : List Byte) :
    decodeBytes o (bs ++ rest) = (decode (wordOfBytes o bs)).map fun i => (i, rest) := by
  match bs, h with
  | [_, _, _, _], _ => rfl

theorem decodeBytes_encodeBytes (o : ByteOrder) (i : Instr) (rest : List Byte) :
    decodeBytes o (encodeBytes o i ++ rest) = .ok (i, rest) := by
  have hlen : (encodeBytes o i).length = 4 := by simp [encodeBytes]
  rw [decodeBytes_append o hlen, encodeBytes, wordOfBytes_bytes, decode_encode]
  rfl

/-- Settles O3: the row of the instruction decodes its word, the row encodes that back, and the four bytes of a word
join to it in either order. -/
theorem decodeOfEncode : Obligations.DecodeOfEncode := fun i _ o rest =>
  ⟨decode_encode i, encode_and_unusedMask i,
    fun hi => decodeFor_ok (decode_encode i) hi fun _ => encode_and_unusedMask i, decodeBytes_encodeBytes o i rest⟩

/-- Settles O5: each word written out is the encoder's word of the instruction. -/
theorem writtenWordsDecode : Obligations.WrittenWordsDecode :=
  ⟨decode_encode (.add 9 20 21), decode_encode (.addis 1 2 4095), decode_encode (.andi 1 2 255),
    decode_encode (.lsr 1 2 63), decode_encode (.movz 9 0x1234 1), decode_encode (.bl 0x40),
    decode_encode (.bLt 0x7FFFC), decode_encode (.cbnz 9 0x7FFFE), decode_encode (.ldursw 1 2 4),
    decode_encode (.stxr 23 9 20), decode_encode (.sdiv 1 2 3), decode_encode (.fsubd 1 2 3),
    decode_encode (.ldurs 1 2 4)⟩

end Sys2Proof

namespace Sys2Proof.Machine

/-! # What an instruction can do, said in the state operations

Every meaning is a run of state operations that ends in a next state, or it takes an exception before any of them but a
free value. What every instruction keeps is then an induction over those operations. -/

/-- `t` is reached from `s` by state operations instruction `i` may use. -/
inductive Updates (i : Instr) (s : State) : State → Prop
  | refl : Updates i s s
  | draw {t : State} (h : Updates i s t) : Updates i s t.draw.2
  | writeX {t : State} (h : Updates i s t) (rd : Reg) (v : Word) : Updates i s (t.writeX rd v)
  | setFlags {t : State} (h : Updates i s t) (f : Flags) : Updates i s (t.setFlags f)
  | setMonitor {t : State} (h : Updates i s t) {m : Option Word} (haligned : ∀ a, m = some a → a.toNat % 8 = 0) :
      Updates i s (t.setMonitor m)
  | writeD {t : State} (h : Updates i s t) {rd : Reg} (hdest : destD i = some rd) (v : Word) :
      Updates i s (t.writeD rd v)
  | storeMem {t : State} (h : Updates i s t) {addr : Word} {n : Nat} (hrange : storeRange i s = some (addr, n))
      (v : Word) : Updates i s (t.storeMem addr n v)
  | branch {t : State} (h : Updates i s t) {offset : Word} (hoffset : offset.toNat % 4 = 0) :
      Updates i s (t.setPc (t.pc + offset))
  | jump {t : State} (h : Updates i s t) {rn : Reg} (hbr : i = .br rn) (pc : Word) : Updates i s (t.setPc pc)

/-- The exceptions an instruction can raise: a Data Abort, and class 7 where the floating-point registers are disabled
(R263, R304). -/
def CanRaise (s : State) (e : Exc) : Prop :=
  e.cls = .dataAbort ∨ (e.cls = .simdDisabled ∧ s.params.fpEnabled = false)

/-- The two ends of an instruction: its updates, or an exception taken before any of them but a free value. -/
inductive Ends (i : Instr) (s : State) : State → Prop
  | completes {t : State} (h : Updates i s t) : Ends i s t
  | raises {s' : State} (hs : s' = s ∨ s' = s.draw.2) {e : Exc} (he : CanRaise s e) : Ends i s (s'.takeException e)

/-- A result that is a next state in which instruction `i` may end. -/
def Performs (i : Instr) (s : State) (run : Result) : Prop := ∃ t, run = .next t ∧ Ends i s t

/-! ## The ends of a meaning -/

section
variable {i : Instr} {s t : State}

theorem Updates.of_eq_or_draw (h : t = s ∨ t = s.draw.2) : Updates i s t := by
  rcases h with rfl | rfl
  · exact .refl
  · exact Updates.refl.draw

theorem Updates.writeS (h : Updates i s t) {rd : Reg} (hdest : destD i = some rd) (v : Word32) :
    Updates i s (t.writeS rd v) :=
  h.draw.writeD hdest _

theorem Updates.performs (h : Updates i s t) : Performs i s (.next t) := ⟨t, rfl, .completes h⟩

theorem Updates.finish (h : Updates i s t) : Performs i s t.finish :=
  (h.branch (offset := 4) (by decide)).performs

theorem Updates.finishX (h : Updates i s t) (rd : Reg) (v : Word) : Performs i s (t.finishX rd v) :=
  (h.writeX rd v).finish

theorem Updates.finishXFlags (h : Updates i s t) (rd : Reg) (r : Word × Flags) : Performs i s (t.finishXFlags rd r) :=
  ((h.writeX rd r.1).setFlags r.2).finish

theorem Updates.clearMonitor (h : Updates i s t) : Updates i s (t.setMonitor none) :=
  h.setMonitor fun _ ha => nomatch ha

theorem performs_raise {e : Exc} (he : CanRaise s e) : Performs i s (s.raise e) := ⟨_, rfl, .raises (.inl rfl) he⟩

theorem performs_finishChoice (rd : Reg) (c : Choice Word) : Performs i s (finishChoice rd c s) :=
  (Updates.of_eq_or_draw (s.resolve_state ..)).finishX ..

theorem performs_finishLogical (rd : Reg) (r : Word) : Performs i s (finishLogical rd r s) :=
  (Updates.of_eq_or_draw (s.resolve_state ..)).finishXFlags ..

theorem performs_branchIf (taken : Bool) {offset : Word} (hoffset : offset.toNat % 4 = 0) :
    Performs i s (s.branchIf taken offset) := by
  cases taken with
  | false => exact Updates.refl.finish
  | true => exact (Updates.refl.branch hoffset).performs

theorem performs_withFp {run : Result} (h : Performs i s run) : Performs i s (s.withFp run) := by
  rcases s.withFp_cases run with ⟨-, heq⟩ | ⟨hfp, heq⟩ <;> rw [heq]
  · exact h
  · exact performs_raise (.inr ⟨rfl, hfp⟩)

/-- A load, by what it does with the value where its access is allowed. -/
theorem performs_loadThen {exclusive : Bool} {addr : Word} {n : Nat} {use : Word → State}
    (h : AccessAllowed s.params exclusive addr n → ∀ v, Updates i s (use v)) :
    Performs i s (s.loadThen exclusive addr n use) := by
  rcases s.loadThen_cases exclusive addr n use with ⟨hok, heq⟩ | ⟨-, heq⟩ <;> rw [heq]
  · exact (h hok _).finish
  · exact performs_raise (.inl rfl)

theorem performs_storeThen {addr : Word} {n : Nat} (hrange : storeRange i s = some (addr, n)) (v : Word) :
    Performs i s (s.storeThen addr n v) := by
  rcases s.storeThen_cases addr n v with ⟨-, heq⟩ | ⟨-, heq⟩ <;> rw [heq]
  · exact (Updates.refl.storeMem hrange v).finish
  · exact performs_raise (.inl rfl)

end

/-! ## The meanings with more than one end -/

section
variable {i : Instr}

theorem performs_execSdiv (rd rn rm : Reg) (s : State) : Performs i s (execSdiv rd rn rm s) := by
  unfold execSdiv
  split
  · exact performs_finishChoice ..
  · split
    · exact performs_finishChoice ..
    · exact Updates.refl.finishX ..

theorem performs_execUdiv (rd rn rm : Reg) (s : State) : Performs i s (execUdiv rd rn rm s) := by
  unfold execUdiv
  split
  · exact performs_finishChoice ..
  · exact Updates.refl.finishX ..

theorem performs_fpSingle {rd : Reg} (hdest : destD i = some rd) (op : FpOp) (rn rm : Reg) (s : State) :
    Performs i s (fpSingle op rd rn rm s) :=
  performs_withFp ((Updates.of_eq_or_draw (fpArith32_state ..)).writeS hdest _).finish

theorem performs_fpDouble {rd : Reg} (hdest : destD i = some rd) (op : FpOp) (rn rm : Reg) (s : State) :
    Performs i s (fpDouble op rd rn rm s) :=
  performs_withFp ((Updates.of_eq_or_draw (fpArith64_state ..)).writeD hdest _).finish

theorem performs_fpCompareInto (rel : FpRel) (s : State) : Performs i s (fpCompareInto rel s) :=
  performs_withFp ((Updates.of_eq_or_draw (fcmpFlags_state ..)).setFlags _).finish

/-- An integer load writes its register with the extended value, where its access is allowed. -/
theorem LoadsX.performs {rt rn : Reg} {addr : BitVec 9} {n : Nat} {ext : Word → Word} (hi : LoadsX i rt rn addr n ext)
    (s : State) : Performs i s (exec i s) := by
  rw [hi.exec_eq]
  exact performs_loadThen fun _ _ => Updates.refl.writeX ..

end

/-- An LDXR arms the monitor at the address of its access, which is aligned where it is allowed (R211). -/
theorem performs_execLdxr (rt rn : Reg) (addr : BitVec 9) (s : State) :
    Performs (.ldxr rt rn addr) s (execLdxr rt rn addr s) :=
  performs_loadThen fun hok _ =>
    (Updates.refl.setMonitor fun _ ha => Option.some.inj ha ▸ ((accessAllowed_exclusive_iff ..).1 hok).1).writeX ..

theorem performs_execStxr (rt rm rn : Reg) (s : State) : Performs (.stxr rt rm rn) s (execStxr rt rm rn s) := by
  have hfree : Updates (.stxr rt rm rn) s s.spurious.2 := .of_eq_or_draw s.spurious_state
  rcases execStxr_cases rt rm rn s with ⟨-, heq⟩ | ⟨-, -, heq⟩ | ⟨-, -, -, -, heq⟩ | ⟨-, -, -, -, heq⟩ <;> rw [heq]
  · exact performs_raise (.inl rfl)
  · exact (hfree.clearMonitor.writeX rm 1).finish
  · exact ((hfree.storeMem rfl _).clearMonitor.writeX rm 0).finish
  · exact ⟨_, rfl, .raises s.spurious_state (.inl rfl)⟩

/-- A branch offset is a multiple of 4, having two zero bits appended (R91, R92). -/
theorem signExtend_append_zero_mod_four {w : Nat} (x : BitVec w) (h : w + 2 ≤ 64) :
    ((x ++ (0 : BitVec 2)).signExtend 64).toNat % 4 = 0 := by
  have hint := toInt_signExtend_append_zero x h
  rw [BitVec.toInt_eq_toNat_cond] at hint
  split at hint <;> omega

theorem branchAddr_mod_four (br : BitVec 26) : (branchAddr br).toNat % 4 = 0 :=
  signExtend_append_zero_mod_four br (by decide)

theorem condBranchAddr_mod_four (cbr : BitVec 19) : (condBranchAddr cbr).toNat % 4 = 0 :=
  signExtend_append_zero_mod_four cbr (by decide)

theorem performs_condBranch {i : Instr} {s : State} (taken : Bool) (cbr : BitVec 19) :
    Performs i s (s.branchIf taken (condBranchAddr cbr)) :=
  performs_branchIf taken (condBranchAddr_mod_four cbr)

theorem performs_execBl {i : Instr} (br : BitVec 26) (s : State) : Performs i s (execBl br s) := by
  have hpc : (s.writeX Reg.lr (s.pc + 4)).pc = s.pc := s.writeX_pc ..
  have h := ((Updates.refl (i := i) (s := s)).writeX Reg.lr (s.pc + 4)).branch (branchAddr_mod_four br)
  rw [hpc] at h
  exact h.performs

/-- Every instruction, by its meaning. -/
theorem exec_performs (i : Instr) (s : State) : Performs i s (exec i s) := by
  cases i with
  | add | addi | sub | subi | and | andi | orr | orri | eor | eori | lsl | lsr | movz | movk | mul | smulh | umulh =>
    exact Updates.refl.finishX ..
  | adds | addis | subs | subis => exact Updates.refl.finishXFlags ..
  | ands | andis => exact performs_finishLogical ..
  | sdiv => exact performs_execSdiv ..
  | udiv => exact performs_execUdiv ..
  | b => exact (Updates.refl.branch (branchAddr_mod_four _)).performs
  | bl => exact performs_execBl ..
  | br => exact (Updates.refl.jump rfl _).performs
  | bEq | bNe | bHs | bLo | bMi | bPl | bVs | bVc | bHi | bLs | bGe | bLt | bGt | bLe | cbz | cbnz =>
    exact performs_condBranch ..
  | ldur => exact (ldur_loadsX ..).performs s
  | ldurb => exact (ldurb_loadsX ..).performs s
  | ldurh => exact (ldurh_loadsX ..).performs s
  | ldursw => exact (ldursw_loadsX ..).performs s
  | ldxr => exact performs_execLdxr ..
  | stur | sturb | sturh | sturw => exact performs_storeThen rfl _
  | stxr => exact performs_execStxr ..
  | fadds | fsubs | fmuls | fdivs => exact performs_fpSingle rfl ..
  | faddd | fsubd | fmuld | fdivd => exact performs_fpDouble rfl ..
  | fcmps | fcmpd => exact performs_fpCompareInto ..
  | ldurs => exact performs_withFp (performs_loadThen fun _ _ => Updates.refl.writeS rfl _)
  | ldurd => exact performs_withFp (performs_loadThen fun _ _ => Updates.refl.writeD rfl _)
  | sturs | sturd => exact performs_withFp (performs_storeThen rfl _)

/-- Every way an instruction ends. -/
theorem ends_of_exec {i : Instr} {s t : State} (h : exec i s = .next t) : Ends i s t := by
  obtain ⟨t', ht', hends⟩ := exec_performs i s
  cases ht'.symm.trans h
  exact hends

/-- Settles O49: every meaning ends in a next state. -/
theorem everyInstructionHasANextState : Obligations.EveryInstructionHasANextState := fun i s => by
  obtain ⟨t, ht, -⟩ := exec_performs i s
  exact ⟨t, ht⟩

/-! ## What the updates keep -/

section
variable {i : Instr} {s t : State}

theorem Updates.faultRecord_eq (h : Updates i s t) : t.faultRecord = s.faultRecord := by
  induction h with
  | refl => rfl
  | writeX _ rd v ih => exact (State.writeX_faultRecord ..).trans ih
  | draw _ ih | setFlags _ _ ih | setMonitor _ _ ih | writeD _ _ _ ih | storeMem _ _ _ ih | branch _ _ ih
  | jump _ _ _ ih => exact ih

theorem Updates.mem_wf (h : Updates i s t) (hs : s.mem.wf) : t.mem.wf := by
  induction h with
  | refl => exact hs
  | writeX _ rd v ih => rwa [State.writeX_mem]
  | storeMem _ _ v ih => exact State.wf_storeMem ih ..
  | draw _ ih | setFlags _ _ ih | setMonitor _ _ ih | writeD _ _ _ ih | branch _ _ ih | jump _ _ _ ih => exact ih

/-- An armed monitor stays at a multiple of 8 (R211). -/
theorem Updates.monitor_aligned (h : Updates i s t) (hs : ∀ a, s.monitor = some a → a.toNat % 8 = 0) :
    ∀ a, t.monitor = some a → a.toNat % 8 = 0 := by
  induction h with
  | refl => exact hs
  | writeX _ rd v ih => rwa [State.writeX_monitor]
  | setMonitor _ haligned => exact haligned
  | draw _ ih | setFlags _ _ ih | writeD _ _ _ ih | storeMem _ _ _ ih | branch _ _ ih | jump _ _ _ ih => exact ih

/-- Only a jump can leave the multiples of 4 (R173). -/
theorem Updates.pc_aligned (h : Updates i s t) (hbr : ∀ rn, i ≠ .br rn) (hs : s.pc.toNat % 4 = 0) :
    t.pc.toNat % 4 = 0 := by
  induction h with
  | refl => exact hs
  | writeX _ rd v ih => rwa [State.writeX_pc]
  | branch _ hoffset ih =>
    rw [State.setPc_pc, BitVec.toNat_add]
    omega
  | jump _ hi => exact absurd hi (hbr _)
  | draw _ ih | setFlags _ _ ih | setMonitor _ _ ih | writeD _ _ _ ih | storeMem _ _ _ ih => exact ih

/-- A floating-point register that is not the destination reads as before. -/
theorem Updates.readD_eq (h : Updates i s t) {r : Reg} (hr : destD i ≠ some r) : t.readD r = s.readD r := by
  induction h with
  | refl => rfl
  | writeX _ rd v ih => exact (State.readD_writeX ..).trans ih
  | writeD _ hdest v ih =>
    have hne : r ≠ _ := fun heq => hr (heq ▸ hdest)
    exact (State.readD_writeD ..).trans ((if_neg hne).trans ih)
  | draw _ ih | setFlags _ _ ih | setMonitor _ _ ih | storeMem _ _ _ ih | branch _ _ ih | jump _ _ _ ih => exact ih

/-- A byte outside the range of the store reads as before. -/
theorem Updates.read_eq (h : Updates i s t) {a : Word}
    (ha : ∀ b n j, storeRange i s = some (b, n) → j < n → a ≠ b + BitVec.ofNat 64 j) :
    t.mem.read a.toNat = s.mem.read a.toNat := by
  induction h with
  | refl => rfl
  | writeX _ rd v ih => rwa [State.writeX_mem]
  | storeMem _ hrange v ih => exact (Memory.read_store_of_ne _ _ _ _ _ _ fun j => ha _ _ j hrange).trans ih
  | draw _ ih | setFlags _ _ ih | setMonitor _ _ ih | writeD _ _ _ ih | branch _ _ ih | jump _ _ _ ih => exact ih

/-- An exception taken after a free value, too, leaves what a program can read (R315). -/
theorem raised_of_takeException {s' : State} (hs : s' = s ∨ s' = s.draw.2) (e : Exc) :
    Raised s (s'.takeException e) e.cls e.info :=
  (s'.takeException_raised e).of_eq_or_draw hs

end

/-- Settles O22: of the updates only BR's jump can leave the multiples of 4, and an exception leaves pc. -/
theorem onlyBrMisalignsThePc : Obligations.OnlyBrMisalignsThePc := by
  intro i s t hbr hs h
  cases ends_of_exec h with
  | completes hupdates => exact hupdates.pc_aligned hbr hs
  | raises hs' => exact (raised_of_takeException hs' _).pc ▸ hs

/-- Settles O55: of the updates only `writeD` of the destination and `storeMem` in the range of the store change what
floating-point registers and bytes read. -/
theorem onlyTheDestinationChanges : Obligations.OnlyTheDestinationChanges := by
  intro i s t h
  refine ⟨fun r hr => ?x, fun r hr => ?d, fun a ha => ?mem⟩
  case x =>
    obtain ⟨t', ht', hkeeps⟩ := exec_keepsX i s hr
    cases ht'.symm.trans h
    exact hkeeps
  case d =>
    cases ends_of_exec h with
    | completes hupdates => exact hupdates.readD_eq hr
    | raises hs' => exact (raised_of_takeException hs' _).d r
  case mem =>
    cases ends_of_exec h with
    | completes hupdates => exact hupdates.read_eq ha
    | raises hs' => exact (raised_of_takeException hs' _).mem a

end Sys2Proof.Machine

namespace Sys2Proof.Machine

/-! # The step (R36, R343) -/

/-! ## The fetch (R60) -/

theorem fetch_of_misaligned (p : Params) {pc : Word} (h : pc.toNat % 4 ≠ 0) :
    fetch p pc = .raises (.misalignedPc pc) :=
  if_pos h

theorem fetch_of_exit {p : Params} {pc : Word} (h4 : pc.toNat % 4 = 0) (hexit : pc = exitPc p) :
    fetch p pc = .ended := by
  rw [fetch, if_neg (not_not.2 h4), if_pos hexit]

/-- Outside the image, below it or past its last word (R302). -/
theorem fetch_of_outside {p : Params} {pc : Word} (h4 : pc.toNat % 4 = 0) (hexit : pc ≠ exitPc p)
    (hout : pc.toNat < p.textBase.toNat ∨ p.textBase.toNat + 4 * p.text.length ≤ pc.toNat) :
    fetch p pc = .raises (.instructionAbort pc) := by
  rw [fetch, if_neg (not_not.2 h4), if_neg hexit]
  split
  case isTrue => rfl
  case isFalse hge =>
    have hpast : p.text.length ≤ (pc.toNat - p.textBase.toNat) / 4 := by omega
    rw [List.getElem?_eq_none hpast]

/-- Inside the image, the word there. -/
theorem fetch_of_inside {p : Params} {pc : Word} {k : Nat} {w : Word32} (h4 : pc.toNat % 4 = 0) (hexit : pc ≠ exitPc p)
    (hpc : pc.toNat = p.textBase.toNat + 4 * k) (hw : p.text[k]? = some w) : fetch p pc = .word w := by
  have hbelow : ¬ pc.toNat < p.textBase.toNat := by omega
  have hindex : (pc.toNat - p.textBase.toNat) / 4 = k := by omega
  rw [fetch, if_neg (not_not.2 h4), if_neg hexit, if_neg hbelow, hindex, hw]

/-! ## Every way a step goes -/

theorem step_of_record {s : State} {r : FaultRecord} (h : s.faultRecord = some r) :
    step s = .fault (.faulted r.cls) := by
  rw [step, h]

theorem step_of_fetch_ended {s : State} (hrec : s.faultRecord = none) (hfetch : fetch s.params s.pc = .ended) :
    step s = .fault .runEnded := by
  simp [step, hrec, hfetch]

theorem step_of_fetch_raises {s : State} {e : Exc} (hrec : s.faultRecord = none)
    (hfetch : fetch s.params s.pc = .raises e) : step s = .next (s.takeException e) := by
  simp [step, hrec, hfetch]

theorem step_of_decodeFor_ok {s : State} {w : Word32} {i : Instr} (hrec : s.faultRecord = none)
    (hfetch : fetch s.params s.pc = .word w) (hi : decodeFor s.params w = .ok i) : step s = exec i s := by
  simp [step, hrec, hfetch, hi]

/-- The exceptions a step can take: of the fetch, of the decoder, or of an instruction (R301 to R304). -/
def StepCanRaise (s : State) (e : Exc) : Prop :=
  e.cls = .unknown ∨ e.cls = .instructionAbort ∨ e.cls = .misalignedPc ∨ CanRaise s e

/-- A state with no fault record, not at EXIT_PC, steps to the state that has taken the exception of its fetch or its
decoding, or to where its instruction ends. -/
theorem step_goes_on {s : State} (hrec : s.faultRecord = none)
    (hexit : ¬ (s.pc.toNat % 4 = 0 ∧ s.pc = exitPc s.params)) :
    ∃ t, step s = .next t ∧
      ((∃ e, StepCanRaise s e ∧ t = s.takeException e) ∨ ∃ i, exec i s = .next t) := by
  rcases fetch_cases s.params s.pc with ⟨-, hfetch⟩ | ⟨h4, heq, -⟩ | ⟨-, -, hfetch⟩ | ⟨-, -, w, hfetch⟩
  · exact ⟨_, step_of_fetch_raises hrec hfetch, .inl ⟨_, .inr (.inr (.inl rfl)), rfl⟩⟩
  · exact absurd ⟨h4, heq⟩ hexit
  · exact ⟨_, step_of_fetch_raises hrec hfetch, .inl ⟨_, .inr (.inl rfl), rfl⟩⟩
  · cases hdecode : decodeFor s.params w with
    | error e => exact ⟨_, step_of_decodeFor_error hrec hfetch hdecode, .inl ⟨_, .inl rfl, rfl⟩⟩
    | ok i =>
      obtain ⟨t, ht⟩ := everyInstructionHasANextState i s
      exact ⟨t, (step_of_decodeFor_ok hrec hfetch hdecode).trans ht, .inr ⟨i, ht⟩⟩

/-- A step goes on, or it finds EXIT_PC, or it finds a fault record (R345). -/
theorem step_trichotomy (s : State) :
    (∃ t, s.faultRecord = none ∧ ¬ (s.pc.toNat % 4 = 0 ∧ s.pc = exitPc s.params) ∧ step s = .next t) ∨
      (s.faultRecord = none ∧ s.pc.toNat % 4 = 0 ∧ s.pc = exitPc s.params ∧ step s = .fault .runEnded) ∨
      (∃ r, s.faultRecord = some r ∧ step s = .fault (.faulted r.cls)) := by
  cases hrec : s.faultRecord with
  | some r => exact .inr (.inr ⟨r, rfl, step_of_record hrec⟩)
  | none =>
    by_cases hexit : s.pc.toNat % 4 = 0 ∧ s.pc = exitPc s.params
    · exact .inr (.inl ⟨rfl, hexit.1, hexit.2, step_of_fetch_ended hrec (fetch_of_exit hexit.1 hexit.2)⟩)
    · obtain ⟨t, ht, -⟩ := step_goes_on hrec hexit
      exact .inl ⟨t, rfl, hexit, ht⟩

/-- What a step that answers a next state did: it took an exception of the fetch or the decoding, or it ran an
instruction. -/
theorem step_cases {s t : State} (h : step s = .next t) :
    s.faultRecord = none ∧ ((∃ e, StepCanRaise s e ∧ t = s.takeException e) ∨ ∃ i, exec i s = .next t) := by
  rcases step_trichotomy s with ⟨-, hrec, hexit, -⟩ | ⟨-, -, -, hend⟩ | ⟨r, -, hend⟩
  · obtain ⟨t', ht', hcases⟩ := step_goes_on hrec hexit
    cases ht'.symm.trans h
    exact ⟨hrec, hcases⟩
  · exact nomatch hend.symm.trans h
  · exact nomatch hend.symm.trans h

/-- A step completes an instruction, or it takes an exception; a free value may have been taken before. -/
theorem step_ends {s t : State} (h : step s = .next t) :
    (∃ i, exec i s = .next t ∧ Updates i s t) ∨
      ∃ s' e, (s' = s ∨ s' = s.draw.2) ∧ StepCanRaise s e ∧ t = s'.takeException e := by
  obtain ⟨-, ⟨e, he, ht⟩ | ⟨i, hi⟩⟩ := step_cases h
  · exact .inr ⟨s, e, .inl rfl, he, ht⟩
  · cases ends_of_exec hi with
    | completes hupdates => exact .inl ⟨i, hi, hupdates⟩
    | raises hs' he => exact .inr ⟨_, _, hs', .inr (.inr (.inr he)), rfl⟩

/-! ## The invariant (R34, R211, R310) -/

/-- Taking an exception from a state with memory in its form meets the invariant. -/
theorem State.inv_takeException {s : State} (hm : s.mem.wf) (e : Exc) : (s.takeException e).Inv where
  mem := hm
  monitor := nofun
  record := by
    rintro _ ⟨⟩
    exact ⟨esrOf_ec .., esrOf_il .., rfl, rfl⟩

/-- An instruction that completes keeps the invariant where there is no fault record. -/
theorem Updates.inv {i : Instr} {s t : State} (h : Updates i s t) (hs : s.Inv) (hrec : s.faultRecord = none) :
    t.Inv where
  mem := h.mem_wf hs.mem
  monitor := h.monitor_aligned hs.monitor
  record _ hr := nomatch (h.faultRecord_eq.trans hrec).symm.trans hr

/-- Settles O57: an instruction that completes keeps the invariant, and an exception writes what it says. -/
theorem everyStepKeepsTheInvariant : Obligations.EveryStepKeepsTheInvariant := by
  intro s t hs h
  rcases step_ends h with ⟨i, -, hupdates⟩ | ⟨s', e, hs', -, rfl⟩
  · exact hupdates.inv hs (step_cases h).1
  · exact State.inv_takeException (State.mem_of_eq_or_draw hs' ▸ hs.mem) e

/-- A launch whose data is in memory's form meets the invariant: it starts with the monitor clear and no record. -/
theorem State.inv_ofLaunch {l : Launch} (h : Memory.wf l.data) : (State.ofLaunch l).Inv := ⟨h, nofun, nofun⟩

/-- Settles O58: a launch starts with the monitor clear and the fault record empty; reset has no data. -/
theorem invariantHoldsAtReset : Obligations.InvariantHoldsAtReset :=
  ⟨State.inv_ofLaunch Memory.wf_nil, fun _ hl => State.inv_ofLaunch hl.2⟩

/-! ## Exceptions (R310 to R315) -/

/-- Settles O51: an instruction that completes leaves no fault record, so the record is the exception's. -/
theorem exceptionsArePrecise : Obligations.ExceptionsArePrecise := by
  intro s t r hs h hr
  rcases step_ends h with ⟨i, -, hupdates⟩ | ⟨s', e, hs', -, rfl⟩
  · exact nomatch (hupdates.faultRecord_eq.trans hs).symm.trans hr
  · cases hr
    exact raised_of_takeException hs' e

theorem State.withFp_raised {s : State} (hfp : s.params.fpEnabled = false) (run : Result) :
    ∃ t, s.withFp run = .next t ∧ Raised s t .simdDisabled none := by
  rcases s.withFp_cases run with ⟨htrue, -⟩ | ⟨-, heq⟩
  · exact absurd (hfp.symm.trans htrue) Bool.false_ne_true
  · exact ⟨_, heq, s.takeException_raised .simdDisabled⟩

/-- Settles O52: each floating-point meaning is under `withFp`, and a step raises what `StepCanRaise` lists. -/
theorem classesThatOccur : Obligations.ClassesThatOccur := by
  refine ⟨fun s rd rn rm rt addr hfp => ?disabled, fun s t r hs h hr => ?classes, rfl⟩
  case disabled =>
    have key (run : Result) : ∃ t, s.withFp run = .next t ∧ Raised s t .simdDisabled none := State.withFp_raised hfp run
    simp only [List.forall_mem_cons]
    exact ⟨key _, key _, key _, key _, key _, key _, key _, key _, key _, key _, key _, key _, key _, key _,
      List.forall_mem_nil _⟩
  case classes =>
    rcases step_ends h with ⟨i, -, hupdates⟩ | ⟨s', e, -, he, rfl⟩
    · exact nomatch (hupdates.faultRecord_eq.trans hs).symm.trans hr
    · cases hr
      exact he

/-- Settles O46: the exception is taken as R310 says, and the record it leaves stops the next step. -/
theorem takingAnException : Obligations.TakingAnException :=
  ⟨fun s e => ⟨rfl, s.takeException_raised e, step_of_record (State.takeException_faultRecord s e)⟩, rfl⟩

/-- Settles O56: neither an exception nor an instruction that completes writes the parameters. -/
theorem parametersNeverChange : Obligations.ParametersNeverChange := by
  intro s t h
  obtain ⟨-, ⟨e, -, rfl⟩ | ⟨i, hi⟩⟩ := step_cases h
  · rfl
  · obtain ⟨t', ht', hcompletes | ⟨cls, info, hraised⟩⟩ := exec_completesOrRaises i s <;> cases ht'.symm.trans hi
    · exact hcompletes.system.params
    · exact hraised.params

/-- Settles O47: each check of the fetch, in its order. -/
theorem fetchChecks : Obligations.FetchChecks := by
  intro s hrec
  refine ⟨fun h4 => ?misaligned, fun h4 hexit => ?ended, fun h4 hexit hout => ?outside,
    fun k w h4 hexit hpc hw => fetch_of_inside h4 hexit hpc hw⟩
  case misaligned =>
    exact ⟨_, step_of_fetch_raises hrec (fetch_of_misaligned _ h4), s.takeException_raised (.misalignedPc s.pc)⟩
  case ended => exact step_of_fetch_ended hrec (fetch_of_exit h4 hexit)
  case outside =>
    exact ⟨_, step_of_fetch_raises hrec (fetch_of_outside h4 hexit hout),
      s.takeException_raised (.instructionAbort s.pc)⟩

/-- Settles O48: the fetch finds the word and the launch's decoder its instruction. -/
theorem stepRunsTheInstruction : Obligations.StepRunsTheInstruction :=
  fun _ _ _ _ hrec h4 hexit hpc hw hdecode hi hunused =>
    step_of_decodeFor_ok hrec (fetch_of_inside h4 hexit hpc hw) (decodeFor_ok hdecode hi hunused)

/-- A launch decodes no word to an instruction it does not implement. -/
theorem decodeFor_error_of_not_implemented {p : Params} {w : Word32}
    (h : ∀ i, decode w = .ok i → i.mnemonic ∉ p.implemented) : ∃ e, decodeFor p w = .error e := by
  unfold decodeFor
  cases hdecode : decode w with
  | error e => exact ⟨e, rfl⟩
  | ok i =>
    have hnot : ¬ i.wellFormed p = true := by simpa [Instr.wellFormed] using h i hdecode
    dsimp only
    rw [if_neg hnot]
    split
    · exact ⟨_, rfl⟩
    · exact ⟨_, rfl⟩

theorem mem_mnemonicAll (m : Mnemonic) : m ∈ Mnemonic.all := by cases m <;> decide

/-- Settles O60: the launch's decoder refuses the word, so its step takes Unknown. -/
theorem implementedSubset : Obligations.ImplementedSubset := by
  refine ⟨fun s w hrec hfetch h => ?_, mem_mnemonicAll, rfl⟩
  obtain ⟨e, he⟩ := decodeFor_error_of_not_implemented h
  exact ⟨_, step_of_decodeFor_error hrec hfetch he, s.takeException_raised .unknown⟩

/-! ## Reset and the floating-point file -/

/-- Settles O59: each field of the state is the launch's, and register 31 has no storage. -/
theorem resetState : Obligations.ResetState :=
  ⟨fun _ => ⟨rfl, State.readX_xzr _, rfl, rfl, fun _ h => dif_pos h, fun _ => rfl, rfl, rfl, rfl, rfl⟩, rfl,
    State.readX_xzr _, rfl, rfl⟩

/-- Settles O8: a single write is a double write of the value under a free high half. -/
theorem floatingPointFile : Obligations.FloatingPointFile := fun s i j v u =>
  ⟨s.readD_writeD i j v, s.readS_writeS_self i u, fun hj => (s.readD_writeS i j u).trans (if_neg hj),
    BitVec.toNat_setWidth ..⟩

end Sys2Proof.Machine

namespace Sys2Proof.Machine

/-! # The runner (R345) -/

theorem runFor_succ_of_next {s t : State} (h : step s = .next t) (k : Nat) : runFor (k + 1) s = runFor k t := by
  rw [runFor, h]

theorem runFor_succ_of_ended {s : State} (h : step s = .fault .runEnded) (k : Nat) : runFor (k + 1) s = .done s := by
  have hrec : s.faultRecord = none := by
    rcases step_trichotomy s with ⟨_, hrec, -⟩ | ⟨hrec, -⟩ | ⟨r, -, hr⟩
    · exact hrec
    · exact hrec
    · exact nomatch hr.symm.trans h
  simp [runFor, h, hrec]

theorem runFor_succ_of_record {s : State} {r : FaultRecord} (h : s.faultRecord = some r) (k : Nat) :
    runFor (k + 1) s = .fault r s := by
  simp [runFor, step_of_record h, h]

/-- How a run ends, with any more fuel as well: it is out of fuel, or done at EXIT_PC, or at a fault record. -/
theorem runFor_cases (k : Nat) (s : State) :
    (∃ t, runFor k s = .outOfFuel t) ∨
      (∃ t, t.faultRecord = none ∧ t.pc = exitPc t.params ∧ ∀ j, runFor (k + j) s = .done t) ∨
      ∃ r t, t.faultRecord = some r ∧ ∀ j, runFor (k + j) s = .fault r t := by
  induction k generalizing s with
  | zero => exact .inl ⟨s, rfl⟩
  | succ k ih =>
    have hfuel (j : Nat) : k + 1 + j = k + j + 1 := Nat.add_right_comm k 1 j
    simp only [hfuel]
    rcases step_trichotomy s with ⟨t, -, -, hstep⟩ | ⟨hrec, -, hexit, hstep⟩ | ⟨r, hrec, -⟩
    · simp only [runFor_succ_of_next hstep]
      exact ih t
    · exact .inr (.inl ⟨s, hrec, hexit, fun j => runFor_succ_of_ended hstep (k + j)⟩)
    · exact .inr (.inr ⟨r, s, hrec, fun j => runFor_succ_of_record hrec (k + j)⟩)

theorem runFor_done {k : Nat} {s t : State} (h : runFor k s = .done t) :
    t.faultRecord = none ∧ t.pc = exitPc t.params ∧ ∀ j, runFor (k + j) s = .done t := by
  rcases runFor_cases k s with ⟨_, hfuel⟩ | ⟨u, hrec, hexit, hdone⟩ | ⟨_, _, -, hfault⟩
  · exact nomatch hfuel.symm.trans h
  · cases (hdone 0).symm.trans h
    exact ⟨hrec, hexit, hdone⟩
  · exact nomatch (hfault 0).symm.trans h

theorem runFor_fault {k : Nat} {s t : State} {r : FaultRecord} (h : runFor k s = .fault r t) :
    t.faultRecord = some r ∧ ∀ j, runFor (k + j) s = .fault r t := by
  rcases runFor_cases k s with ⟨_, hfuel⟩ | ⟨_, -, -, hdone⟩ | ⟨_, u, hrec, hfault⟩
  · exact nomatch hfuel.symm.trans h
  · exact nomatch (hdone 0).symm.trans h
  · cases (hfault 0).symm.trans h
    exact ⟨hrec, hfault⟩

theorem runFor_ne_refused (k : Nat) (s : State) (r : Refusal) : runFor k s ≠ .refused r := by
  intro h
  rcases runFor_cases k s with ⟨_, hfuel⟩ | ⟨_, -, -, hdone⟩ | ⟨_, _, -, hfault⟩
  · exact nomatch hfuel.symm.trans h
  · exact nomatch (hdone 0).symm.trans h
  · exact nomatch (hfault 0).symm.trans h

/-- A branch to itself changes no state. -/
theorem exec_b_zero (s : State) : exec (.b 0) s = .next s := by
  have hoffset : branchAddr 0 = 0 := by decide
  have htarget : s.pc + branchAddr 0 = s.pc := by rw [hoffset]; exact BitVec.add_zero s.pc
  exact congrArg (fun pc => Host.Outcome.next (s.setPc pc)) htarget

/-- The word of a branch to itself steps to the same state (R170). -/
theorem step_of_branch_to_self {s : State} (hrec : s.faultRecord = none)
    (hfetch : fetch s.params s.pc = .word 0x14000000) (hi : Instr.wellFormed s.params (.b 0) = true) :
    step s = .next s := by
  have hdecode : decodeFor s.params 0x14000000 = .ok (.b 0) :=
    decodeFor_ok (decode_encode (.b 0)) hi fun _ => encode_and_unusedMask (.b 0)
  exact (step_of_decodeFor_ok hrec hfetch hdecode).trans (exec_b_zero s)

/-- A state that steps to itself uses up any fuel. -/
theorem runFor_of_step_self {s : State} (h : step s = .next s) (k : Nat) : runFor k s = .outOfFuel s := by
  induction k with
  | zero => rfl
  | succ k ih => exact (runFor_succ_of_next h k).trans ih

/-- Settles O50, by induction on the fuel: the runner follows the three ways a step goes. -/
theorem threeEndsOfARun : Obligations.ThreeEndsOfARun := by
  refine ⟨step_trichotomy, fun _ => rfl, fun k _ _ h => runFor_succ_of_next h k, fun k _ h => runFor_succ_of_ended h k,
    fun k _ _ h => runFor_succ_of_record h k, fun _ _ _ => runFor_done, fun _ _ _ _ => runFor_fault,
    runFor_ne_refused, fun p h => ?exit, fun k s hrec hfetch hi => ?loop⟩
  case exit => rw [exitPc, h, Option.getD_none]
  case loop => exact runFor_of_step_self (step_of_branch_to_self hrec hfetch hi) k

end Sys2Proof.Machine

namespace Sys2Proof.Machine

/-! # ESR (R311)

An instruction on a state with another ESR does the same but for ESR: each operation either passes the other ESR on or,
taking an exception, writes over it. -/

/-- The state with another value of ESR. -/
def State.withEsr (s : State) (e : Word32) : State := { s with esr := e }

/-! ## The updates commute with a write of ESR

One spelling: a write of ESR goes outermost. -/

section
variable (s : State) (e : Word32)

@[simp] theorem State.withEsr_pc : (s.withEsr e).pc = s.pc := rfl
@[simp] theorem State.withEsr_mem : (s.withEsr e).mem = s.mem := rfl
@[simp] theorem State.withEsr_monitor : (s.withEsr e).monitor = s.monitor := rfl
@[simp] theorem State.withEsr_params : (s.withEsr e).params = s.params := rfl
@[simp] theorem State.readX_withEsr (r : Reg) : (s.withEsr e).readX r = s.readX r := rfl
@[simp] theorem State.readD_withEsr (i : Reg) : (s.withEsr e).readD i = s.readD i := rfl
@[simp] theorem State.readS_withEsr (i : Reg) : (s.withEsr e).readS i = s.readS i := rfl
@[simp] theorem State.dAddr_withEsr (rn : Reg) (addr : BitVec 9) : (s.withEsr e).dAddr rn addr = s.dAddr rn addr := rfl

@[simp] theorem State.setPc_withEsr (t : Word) : (s.withEsr e).setPc t = (s.setPc t).withEsr e := rfl
@[simp] theorem State.nextPc_withEsr : (s.withEsr e).nextPc = s.nextPc.withEsr e := rfl
@[simp] theorem State.setFlags_withEsr (f : Flags) : (s.withEsr e).setFlags f = (s.setFlags f).withEsr e := rfl
@[simp] theorem State.setMonitor_withEsr (m : Option Word) :
    (s.withEsr e).setMonitor m = (s.setMonitor m).withEsr e := rfl
@[simp] theorem State.storeMem_withEsr (a : Word) (n : Nat) (v : Word) :
    (s.withEsr e).storeMem a n v = (s.storeMem a n v).withEsr e := rfl
@[simp] theorem State.writeD_withEsr (i : Reg) (v : Word) : (s.withEsr e).writeD i v = (s.writeD i v).withEsr e := rfl
@[simp] theorem State.writeS_withEsr (i : Reg) (v : Word32) : (s.withEsr e).writeS i v = (s.writeS i v).withEsr e := rfl
@[simp] theorem State.writeX_withEsr (r : Reg) (v : Word) : (s.withEsr e).writeX r v = (s.writeX r v).withEsr e := by
  unfold State.writeX; split <;> rfl

/-- Taking an exception writes over ESR. -/
@[simp] theorem State.takeException_withEsr (x : Exc) : (s.withEsr e).takeException x = s.takeException x := rfl

/-! ## What the operations compute is the same whatever ESR is -/

@[simp] theorem State.resolve_withEsr {α : Type} (c : Choice α) (g : Word → α) :
    (s.withEsr e).resolve c g = Prod.map id (·.withEsr e) (s.resolve c g) := by
  cases c <;> rfl

@[simp] theorem State.spurious_withEsr : (s.withEsr e).spurious = Prod.map id (·.withEsr e) s.spurious := by
  unfold State.spurious; rw [State.withEsr_params]; split <;> rfl

theorem nanResult32_withEsr (policy : NanPolicy) :
    nanResult32 policy (s.withEsr e) = Prod.map id (·.withEsr e) (nanResult32 policy s) := by
  cases policy <;> rfl

theorem nanResult64_withEsr (policy : NanPolicy) :
    nanResult64 policy (s.withEsr e) = Prod.map id (·.withEsr e) (nanResult64 policy s) := by
  cases policy <;> rfl

@[simp] theorem fpArith32_withEsr (op : FpOp) (a b : Word32) :
    fpArith32 op a b (s.withEsr e) = Prod.map id (·.withEsr e) (fpArith32 op a b s) := by
  unfold fpArith32
  rw [State.withEsr_params]
  split
  · rfl
  · split
    · rfl
    · exact nanResult32_withEsr ..

@[simp] theorem fpArith64_withEsr (op : FpOp) (a b : Word) :
    fpArith64 op a b (s.withEsr e) = Prod.map id (·.withEsr e) (fpArith64 op a b s) := by
  unfold fpArith64
  rw [State.withEsr_params]
  split
  · rfl
  · split
    · rfl
    · exact nanResult64_withEsr ..

@[simp] theorem fcmpFlags_withEsr (rel : FpRel) :
    fcmpFlags rel (s.withEsr e) = Prod.map id (·.withEsr e) (fcmpFlags rel s) := by
  unfold fcmpFlags
  split
  · rfl
  · exact State.resolve_withEsr ..

end

/-! ## Runs that agree but for ESR -/

/-- Both runs answer a next state, and the two states differ in ESR at most. -/
def AgreeButEsr (run run' : Result) : Prop := ∃ t e, run = .next t ∧ run' = .next (t.withEsr e)

theorem AgreeButEsr.next {t t' : State} {e : Word32} (h : t' = t.withEsr e) : AgreeButEsr (.next t) (.next t') :=
  ⟨t, e, rfl, congrArg _ h⟩

/-- Runs that make the same choice agree where its two sides do. -/
theorem AgreeButEsr.ite {p : Prop} [Decidable p] {run₁ run₁' run₂ run₂' : Result} (h₁ : AgreeButEsr run₁ run₁')
    (h₂ : AgreeButEsr run₂ run₂') : AgreeButEsr (if p then run₁ else run₂) (if p then run₁' else run₂') := by
  by_cases hp : p
  · rwa [if_pos hp, if_pos hp]
  · rwa [if_neg hp, if_neg hp]

section
variable (s : State) (e : Word32)

theorem agreeButEsr_raise (x : Exc) : AgreeButEsr (s.raise x) ((s.withEsr e).raise x) :=
  .next (e := (s.takeException x).esr) rfl

theorem agreeButEsr_finish : AgreeButEsr s.finish (s.withEsr e).finish := .next (e := e) rfl

theorem agreeButEsr_finishX (rd : Reg) (v : Word) : AgreeButEsr (s.finishX rd v) ((s.withEsr e).finishX rd v) :=
  .next (e := e) (by simp)

theorem agreeButEsr_finishXFlags (rd : Reg) (r : Word × Flags) :
    AgreeButEsr (s.finishXFlags rd r) ((s.withEsr e).finishXFlags rd r) :=
  .next (e := e) (by simp)

theorem agreeButEsr_branchIf (taken : Bool) (offset : Word) :
    AgreeButEsr (s.branchIf taken offset) ((s.withEsr e).branchIf taken offset) := by
  rw [State.branchIf_eq, State.branchIf_eq]
  exact .next (e := e) rfl

theorem agreeButEsr_finishChoice (rd : Reg) (c : Choice Word) :
    AgreeButEsr (finishChoice rd c s) (finishChoice rd c (s.withEsr e)) :=
  .next (e := e) (by simp)

theorem agreeButEsr_finishLogical (rd : Reg) (r : Word) :
    AgreeButEsr (finishLogical rd r s) (finishLogical rd r (s.withEsr e)) :=
  .next (e := e) (by simp)

theorem agreeButEsr_withFp {run run' : Result} (h : AgreeButEsr run run') :
    AgreeButEsr (s.withFp run) ((s.withEsr e).withFp run') :=
  .ite h (agreeButEsr_raise ..)

theorem agreeButEsr_loadThen {use use' : Word → State} (h : ∀ v, use' v = (use v).withEsr e) (exclusive : Bool)
    (addr : Word) (n : Nat) :
    AgreeButEsr (s.loadThen exclusive addr n use) ((s.withEsr e).loadThen exclusive addr n use') := by
  unfold State.loadThen
  simp only [h, State.withEsr_params, State.withEsr_mem]
  exact .ite (agreeButEsr_finish ..) (agreeButEsr_raise ..)

theorem agreeButEsr_storeThen (addr : Word) (n : Nat) (v : Word) :
    AgreeButEsr (s.storeThen addr n v) ((s.withEsr e).storeThen addr n v) :=
  .ite (agreeButEsr_finish (s.storeMem addr n v) e) (agreeButEsr_raise ..)

theorem agreeButEsr_fpSingle (op : FpOp) (rd rn rm : Reg) :
    AgreeButEsr (fpSingle op rd rn rm s) (fpSingle op rd rn rm (s.withEsr e)) :=
  agreeButEsr_withFp s e (.next (e := e) (by simp))

theorem agreeButEsr_fpDouble (op : FpOp) (rd rn rm : Reg) :
    AgreeButEsr (fpDouble op rd rn rm s) (fpDouble op rd rn rm (s.withEsr e)) :=
  agreeButEsr_withFp s e (.next (e := e) (by simp))

theorem agreeButEsr_fpCompareInto (rel : FpRel) :
    AgreeButEsr (fpCompareInto rel s) (fpCompareInto rel (s.withEsr e)) :=
  agreeButEsr_withFp s e (.next (e := e) (by simp))

theorem agreeButEsr_execSdiv (rd rn rm : Reg) :
    AgreeButEsr (execSdiv rd rn rm s) (execSdiv rd rn rm (s.withEsr e)) :=
  .ite (agreeButEsr_finishChoice ..) (.ite (agreeButEsr_finishChoice ..) (agreeButEsr_finishX ..))

theorem agreeButEsr_execUdiv (rd rn rm : Reg) :
    AgreeButEsr (execUdiv rd rn rm s) (execUdiv rd rn rm (s.withEsr e)) :=
  .ite (agreeButEsr_finishChoice ..) (agreeButEsr_finishX ..)

theorem agreeButEsr_finishStxr (rm : Reg) (status : Word) :
    AgreeButEsr (finishStxr rm status s) (finishStxr rm status (s.withEsr e)) :=
  .next (e := e) (by simp)

theorem agreeButEsr_execStxr (rt rm rn : Reg) :
    AgreeButEsr (execStxr rt rm rn s) (execStxr rt rm rn (s.withEsr e)) := by
  unfold execStxr
  simp only [State.readX_withEsr, State.withEsr_monitor, State.withEsr_params, State.spurious_withEsr, Prod.map_fst,
    Prod.map_snd, id, State.storeMem_withEsr]
  exact .ite (.ite (.ite (agreeButEsr_finishStxr ..) (agreeButEsr_raise ..)) (agreeButEsr_finishStxr ..))
    (agreeButEsr_raise ..)

theorem agreeButEsr_execBl (br : BitVec 26) : AgreeButEsr (execBl br s) (execBl br (s.withEsr e)) :=
  .next (e := e) (by simp)

end

/-- No instruction reads ESR (R311). -/
theorem exec_agreeButEsr (i : Instr) (s : State) (e : Word32) : AgreeButEsr (exec i s) (exec i (s.withEsr e)) := by
  cases i with
  | add | addi | sub | subi | and | andi | orr | orri | eor | eori | lsl | lsr | movz | movk | mul | smulh | umulh =>
    exact agreeButEsr_finishX ..
  | adds | addis | subs | subis => exact agreeButEsr_finishXFlags ..
  | ands | andis => exact agreeButEsr_finishLogical ..
  | sdiv => exact agreeButEsr_execSdiv ..
  | udiv => exact agreeButEsr_execUdiv ..
  | b | br => exact .next (e := e) rfl
  | bl => exact agreeButEsr_execBl ..
  | bEq | bNe | bHs | bLo | bMi | bPl | bVs | bVc | bHi | bLs | bGe | bLt | bGt | bLe | cbz | cbnz =>
    exact agreeButEsr_branchIf ..
  | ldur | ldurb | ldurh | ldursw | ldxr =>
    simp only [exec, execLdur, execLdurb, execLdurh, execLdursw, execLdxr, State.dAddr_withEsr]
    exact agreeButEsr_loadThen s e (fun v => by simp) ..
  | stur | sturb | sturh | sturw => exact agreeButEsr_storeThen ..
  | stxr => exact agreeButEsr_execStxr ..
  | fadds | fsubs | fmuls | fdivs => exact agreeButEsr_fpSingle ..
  | faddd | fsubd | fmuld | fdivd => exact agreeButEsr_fpDouble ..
  | fcmps | fcmpd => exact agreeButEsr_fpCompareInto ..
  | ldurs | ldurd => exact agreeButEsr_withFp s e (agreeButEsr_loadThen s e (fun _ => rfl) ..)
  | sturs | sturd => exact agreeButEsr_withFp s e (agreeButEsr_storeThen ..)

/-- A step that takes no exception leaves ESR. -/
theorem step_keeps_esr {s t : State} (h : step s = .next t) (hrec : t.faultRecord = none) : t.esr = s.esr := by
  obtain ⟨-, ⟨e, -, rfl⟩ | ⟨i, hi⟩⟩ := step_cases h
  · exact nomatch hrec
  · exact ((exec_completesOrRaises i s).completes hi hrec).system.esr

/-- Settles O53: an instruction that completes leaves ESR, an exception writes it, and none reads it. -/
theorem esrIsWrittenByExceptionsAlone : Obligations.EsrIsWrittenByExceptionsAlone := by
  refine ⟨fun s t hs h => ⟨step_keeps_esr h, fun r hr => ?raised⟩, fun i s t e h => ?unread⟩
  case raised =>
    have hraised := exceptionsArePrecise s t r hs h hr
    exact ⟨hraised.ec, hraised.il⟩
  case unread =>
    obtain ⟨t', e', ht', hagree⟩ := exec_agreeButEsr i s e
    cases ht'.symm.trans h
    exact ⟨e', hagree⟩

end Sys2Proof.Machine
